-- ==== Sys2Proof/Word.lean ====
section
/-! DEFINITION. The word types of the machine (XLEN = FLEN = 64, 00_scope.md rule R5). -/

namespace Sys2Proof

/-- A 64-bit register value or address: XLEN = FLEN = 64 (R5). -/
abbrev Word := BitVec 64

/-- One byte of memory (R40). -/
abbrev Byte := BitVec 8

/-- The 32 bits of an instruction (R60). -/
abbrev InsnWord := BitVec 32

/-- The five accrued exception flags of `fcsr`: NV (bit 4), DZ (3), OF (2), UF (1), NX (0) (R12, R25). -/
abbrev FpFlags := BitVec 5

end Sys2Proof
end

