-- ==== Sys2Proof/Syntax.lean ====
section
/-! DEFINITION. The instructions of the machine: one constructor per mnemonic of spec/opcode_table.json.
The table prints each X mnemonic twice, once with rm = 101 and once with rm = 110 (R70); here one constructor with
an operand of type `XRm` stands for both rows (log 16). Operand names are those of R7: `rd` (n), `rs1` (m, or s in
the PMADD family), `rs2` (t), `rs3` (u), `rm` (r), `imm` (i). -/

namespace Sys2Proof

/-- The number of a floating-point register F0 to F31 (R20). -/
abbrev FReg := BitVec 5

/-- The number of an integer register X0 to X31 (R23). -/
abbrev XReg := BitVec 5

/-- The two rounding-mode codes that select a 128-bit form (R14): 101 is 2xRTZ, 110 is 2xRNE. -/
inductive XRm where
  | rtz2 | rne2
  deriving DecidableEq, Repr

/-- The instructions. An `rm` operand keeps the three bits of the field: what each code means is R14. -/
inductive Instr where
  /-- FLH Fn, Rm, Disp12_I (R101) -/
  | flh (rd : FReg) (rs1 : XReg) (imm : BitVec 12)
  /-- FLW Fn, Rm, Disp12_I (R102) -/
  | flw (rd : FReg) (rs1 : XReg) (imm : BitVec 12)
  /-- FLD Fn, Rm, Disp12_I (R103) -/
  | fld (rd : FReg) (rs1 : XReg) (imm : BitVec 12)
  /-- FSH Rm, Disp12_S, Ft (R105) -/
  | fsh (rs1 : XReg) (imm : BitVec 12) (rs2 : FReg)
  /-- FSW Rm, Disp12_S, Ft (R106) -/
  | fsw (rs1 : XReg) (imm : BitVec 12) (rs2 : FReg)
  /-- FSD Rm, Disp12_S, Ft (R107) -/
  | fsd (rs1 : XReg) (imm : BitVec 12) (rs2 : FReg)
  /-- FLX XFn, Rm, Disp12_I (R104) -/
  | flx (rd : FReg) (rs1 : XReg) (imm : BitVec 12)
  /-- FSX Rm, Disp12_S, XFt (R108) -/
  | fsx (rs1 : XReg) (imm : BitVec 12) (rs2 : FReg)
  /-- PADD.S Fn, Fm, Ft (R123) -/
  | paddS (rd rs1 rs2 : FReg) (rm : BitVec 3)
  /-- PSUB.S Fn, Fm, Ft (R124) -/
  | psubS (rd rs1 rs2 : FReg) (rm : BitVec 3)
  /-- PMUL.S Fn, Fm, Ft (R125) -/
  | pmulS (rd rs1 rs2 : FReg) (rm : BitVec 3)
  /-- PADD.H Fn, Fm, Ft (R126) -/
  | paddH (rd rs1 rs2 : FReg) (rm : BitVec 3)
  /-- PSUB.H Fn, Fm, Ft (R127) -/
  | psubH (rd rs1 rs2 : FReg) (rm : BitVec 3)
  /-- PMUL.H Fn, Fm, Ft (R128) -/
  | pmulH (rd rs1 rs2 : FReg) (rm : BitVec 3)
  /-- PDIV.S Fn, Fm, Ft (R129) -/
  | pdivS (rd rs1 rs2 : FReg) (rm : BitVec 3)
  /-- PDIV.H Fn, Fm, Ft (R130) -/
  | pdivH (rd rs1 rs2 : FReg) (rm : BitVec 3)
  /-- PADDX.S XFn, XFm, XFt (R137) -/
  | paddxS (rd rs1 rs2 : FReg) (rm : XRm)
  /-- PSUBX.S XFn, XFm, XFt (R138) -/
  | psubxS (rd rs1 rs2 : FReg) (rm : XRm)
  /-- PMULX.S XFn, XFm, XFt (R139) -/
  | pmulxS (rd rs1 rs2 : FReg) (rm : XRm)
  /-- PADDX.D XFn, XFm, XFt (R140) -/
  | paddxD (rd rs1 rs2 : FReg) (rm : XRm)
  /-- FADD.D Fn, Fm, Ft (R132) -/
  | faddD (rd rs1 rs2 : FReg) (rm : BitVec 3)
  /-- PSUBX.D XFn, XFm, XFt (R141) -/
  | psubxD (rd rs1 rs2 : FReg) (rm : XRm)
  /-- FSUB.D Fn, Fm, Ft (R133) -/
  | fsubD (rd rs1 rs2 : FReg) (rm : BitVec 3)
  /-- PMULX.D XFn, XFm, XFt (R142) -/
  | pmulxD (rd rs1 rs2 : FReg) (rm : XRm)
  /-- FMUL.D Fn, Fm, Ft (R134) -/
  | fmulD (rd rs1 rs2 : FReg) (rm : BitVec 3)
  /-- PADDX.H XFn, XFm, XFt (R143) -/
  | paddxH (rd rs1 rs2 : FReg) (rm : XRm)
  /-- PSUBX.H XFn, XFm, XFt (R144) -/
  | psubxH (rd rs1 rs2 : FReg) (rm : XRm)
  /-- PMULX.H XFn, XFm, XFt (R145) -/
  | pmulxH (rd rs1 rs2 : FReg) (rm : XRm)
  /-- PDIVX.S XFn, XFm, XFt (R146) -/
  | pdivxS (rd rs1 rs2 : FReg) (rm : XRm)
  /-- PDIVX.D XFn, XFm, XFt (R147) -/
  | pdivxD (rd rs1 rs2 : FReg) (rm : XRm)
  /-- FDIV.D Fn, Fm, Ft (R135) -/
  | fdivD (rd rs1 rs2 : FReg) (rm : BitVec 3)
  /-- PDIVX.H XFn, XFm, XFt (R148) -/
  | pdivxH (rd rs1 rs2 : FReg) (rm : XRm)
  /-- PSGNJ.S Fn, Fm, Ft (R161) -/
  | psgnjS (rd rs1 rs2 : FReg)
  /-- PSGNJN.S Fn, Fm, Ft (R162) -/
  | psgnjnS (rd rs1 rs2 : FReg)
  /-- PSGNJX.S Fn, Fm, Ft (R163) -/
  | psgnjxS (rd rs1 rs2 : FReg)
  /-- FSGNJ.D Fn, Fm, Ft (R164) -/
  | fsgnjD (rd rs1 rs2 : FReg)
  /-- FSGNJN.D Fn, Fm, Ft (R165) -/
  | fsgnjnD (rd rs1 rs2 : FReg)
  /-- FSGNJX.D Fn, Fm, Ft (R166) -/
  | fsgnjxD (rd rs1 rs2 : FReg)
  /-- PSGNJ.H Fn, Fm, Ft (R167) -/
  | psgnjH (rd rs1 rs2 : FReg)
  /-- PSGNJN.H Fn, Fm, Ft (R168) -/
  | psgnjnH (rd rs1 rs2 : FReg)
  /-- PSGNJX.H Fn, Fm, Ft (R169) -/
  | psgnjxH (rd rs1 rs2 : FReg)
  /-- PMIN.S Fn, Fm, Ft (R181) -/
  | pminS (rd rs1 rs2 : FReg)
  /-- PMAX.S Fn, Fm, Ft (R182) -/
  | pmaxS (rd rs1 rs2 : FReg)
  /-- PMIN.H Fn, Fm, Ft (R183) -/
  | pminH (rd rs1 rs2 : FReg)
  /-- PMAX.H Fn, Fm, Ft (R184) -/
  | pmaxH (rd rs1 rs2 : FReg)
  /-- FPKBB.H Fn, Fm, Ft (R193) -/
  | fpkbbH (rd rs1 rs2 : FReg)
  /-- FPKBT.H Fn, Fm, Ft (R194) -/
  | fpkbtH (rd rs1 rs2 : FReg)
  /-- FPKTB.H Fn, Fm, Ft (R195) -/
  | fpktbH (rd rs1 rs2 : FReg)
  /-- FPKTT.H Fn, Fm, Ft (R196) -/
  | fpkttH (rd rs1 rs2 : FReg)
  /-- FPKBB.S Fn, Fm, Ft (R197) -/
  | fpkbbS (rd rs1 rs2 : FReg)
  /-- FPKBT.S Fn, Fm, Ft (R198) -/
  | fpkbtS (rd rs1 rs2 : FReg)
  /-- FPKTB.S Fn, Fm, Ft (R199) -/
  | fpktbS (rd rs1 rs2 : FReg)
  /-- FPKTT.S Fn, Fm, Ft (R186) -/
  | fpkttS (rd rs1 rs2 : FReg)
  /-- FCVT.S.D Fn, Fm (R203) -/
  | fcvtSD (rd rs1 : FReg) (rm : BitVec 3)
  /-- FCVT.D.S Fn, Fm (R204) -/
  | fcvtDS (rd rs1 : FReg) (rm : BitVec 3)
  /-- PCVT.S.H Fn, Fm (R209) -/
  | pcvtSH (rd rs1 : FReg) (rm : BitVec 3)
  /-- PCVT.H.S Fn, Fm (R210) -/
  | pcvtHS (rd rs1 : FReg) (rm : BitVec 3)
  /-- FCVT.D.H Fn, Fm (R205) -/
  | fcvtDH (rd rs1 : FReg) (rm : BitVec 3)
  /-- FCVT.H.D Fn, Fm (R206) -/
  | fcvtHD (rd rs1 : FReg) (rm : BitVec 3)
  /-- PCVT.S.BF16 Fn, Fm (R211) -/
  | pcvtSBf16 (rd rs1 : FReg) (rm : BitVec 3)
  /-- PCVT.BF16.S Fn, Fm (R212) -/
  | pcvtBf16S (rd rs1 : FReg) (rm : BitVec 3)
  /-- FCVT.D.BF16 Fn, Fm (R207) -/
  | fcvtDBf16 (rd rs1 : FReg) (rm : BitVec 3)
  /-- FCVT.BF16.D Fn, Fm (R208) -/
  | fcvtBf16D (rd rs1 : FReg) (rm : BitVec 3)
  /-- PCVTHI.S.H Fn, Fm (R213) -/
  | pcvthiSH (rd rs1 : FReg) (rm : BitVec 3)
  /-- PCVTHI.S.BF16 Fn, Fm (R214) -/
  | pcvthiSBf16 (rd rs1 : FReg) (rm : BitVec 3)
  /-- PCVTX.S.H XFn, Fm (R215) -/
  | pcvtxSH (rd rs1 : FReg) (rm : XRm)
  /-- PCVTX.H.S Fn, XFm (R216) -/
  | pcvtxHS (rd rs1 : FReg) (rm : XRm)
  /-- PCVTX.S.BF16 XFn, Fm (R217) -/
  | pcvtxSBf16 (rd rs1 : FReg) (rm : XRm)
  /-- PCVTX.BF16.S Fn, XFm (R218) -/
  | pcvtxBf16S (rd rs1 : FReg) (rm : XRm)
  /-- PSQRT.S Fn, Fm (R234) -/
  | psqrtS (rd rs1 : FReg) (rm : BitVec 3)
  /-- FSQRT.D Fn, Fm (R235) -/
  | fsqrtD (rd rs1 : FReg) (rm : BitVec 3)
  /-- PSQRT.H Fn, Fm (R236) -/
  | psqrtH (rd rs1 : FReg) (rm : BitVec 3)
  /-- PSQRTX.S XFn, XFm (R237) -/
  | psqrtxS (rd rs1 : FReg) (rm : XRm)
  /-- PSQRTX.D XFn, XFm (R239) -/
  | psqrtxD (rd rs1 : FReg) (rm : XRm)
  /-- PRCPA.S Fn, Fm (R240) -/
  | prcpaS (rd rs1 : FReg)
  /-- FRCPA.D Fn, Fm (R241) -/
  | frcpaD (rd rs1 : FReg)
  /-- PRCPA.H Fn, Fm (R242) -/
  | prcpaH (rd rs1 : FReg)
  /-- PSQRTA.S Fn, Fm (R243) -/
  | psqrtaS (rd rs1 : FReg)
  /-- FSQRTA.D Fn, Fm (R244) -/
  | fsqrtaD (rd rs1 : FReg)
  /-- PSQRTA.H Fn, Fm (R245) -/
  | psqrtaH (rd rs1 : FReg)
  /-- PMADD.S Fn, Fs, Ft, Fu (R254) -/
  | pmaddS (rd rs1 rs2 rs3 : FReg) (rm : BitVec 3)
  /-- PMADD.H Fn, Fs, Ft, Fu (R255) -/
  | pmaddH (rd rs1 rs2 rs3 : FReg) (rm : BitVec 3)
  /-- PMSUB.S Fn, Fs, Ft, Fu (R256) -/
  | pmsubS (rd rs1 rs2 rs3 : FReg) (rm : BitVec 3)
  /-- PMSUB.H Fn, Fs, Ft, Fu (R257) -/
  | pmsubH (rd rs1 rs2 rs3 : FReg) (rm : BitVec 3)
  /-- PNMSUB.S Fn, Fs, Ft, Fu (R258) -/
  | pnmsubS (rd rs1 rs2 rs3 : FReg) (rm : BitVec 3)
  /-- PNMSUB.H Fn, Fs, Ft, Fu (R259) -/
  | pnmsubH (rd rs1 rs2 rs3 : FReg) (rm : BitVec 3)
  /-- PNMADD.S Fn, Fs, Ft, Fu (R260) -/
  | pnmaddS (rd rs1 rs2 rs3 : FReg) (rm : BitVec 3)
  /-- PNMADD.H Fn, Fs, Ft, Fu (R261) -/
  | pnmaddH (rd rs1 rs2 rs3 : FReg) (rm : BitVec 3)
  /-- PACK Rn, Rm, Rt (R271) -/
  | pack (rd rs1 rs2 : XReg)
  /-- PACKU Rn, Rm, Rt (R272) -/
  | packu (rd rs1 rs2 : XReg)
  /-- PSHUF.W Rn, Rm, Imm8 (R273) -/
  | pshufW (rd rs1 : XReg) (imm : BitVec 8)
  /-- PFSHUF.W FRn, FRm, Imm8 (R274) -/
  | pfshufW (rd rs1 : FReg) (imm : BitVec 8)
  /-- PKBB16 Rn, Rm, Rt (R276) -/
  | pkbb16 (rd rs1 rs2 : XReg)
  /-- PKBT16 Rn, Rm, Rt (R277) -/
  | pkbt16 (rd rs1 rs2 : XReg)
  /-- PKTB16 Rn, Rm, Rt (R278) -/
  | pktb16 (rd rs1 rs2 : XReg)
  /-- PKTT16 Rn, Rm, Rt (R279) -/
  | pktt16 (rd rs1 rs2 : XReg)
  /-- PKBB32 Rn, Rm, Rt (R280) -/
  | pkbb32 (rd rs1 rs2 : XReg)
  /-- PKBT32 Rn, Rm, Rt (R281) -/
  | pkbt32 (rd rs1 rs2 : XReg)
  /-- PKTB32 Rn, Rm, Rt (R282) -/
  | pktb32 (rd rs1 rs2 : XReg)
  /-- PKTT32 Rn, Rm, Rt (R283) -/
  | pktt32 (rd rs1 rs2 : XReg)
  /-- FLE.S Rn, Fm, Ft (R171) -/
  | fleS (rd : XReg) (rs1 rs2 : FReg)
  /-- FLT.S Rn, Fm, Ft (R172) -/
  | fltS (rd : XReg) (rs1 rs2 : FReg)
  /-- FEQ.S Rn, Fm, Ft (R173) -/
  | feqS (rd : XReg) (rs1 rs2 : FReg)
  /-- FLE.D Rn, Fm, Ft (R174) -/
  | fleD (rd : XReg) (rs1 rs2 : FReg)
  /-- FLT.D Rn, Fm, Ft (R175) -/
  | fltD (rd : XReg) (rs1 rs2 : FReg)
  /-- FEQ.D Rn, Fm, Ft (R176) -/
  | feqD (rd : XReg) (rs1 rs2 : FReg)
  /-- FLE.H Rn, Fm, Ft (R177) -/
  | fleH (rd : XReg) (rs1 rs2 : FReg)
  /-- FLT.H Rn, Fm, Ft (R178) -/
  | fltH (rd : XReg) (rs1 rs2 : FReg)
  /-- FEQ.H Rn, Fm, Ft (R179) -/
  | feqH (rd : XReg) (rs1 rs2 : FReg)
  /-- FMV.X.D Rn, Fm (R291) -/
  | fmvXD (rd : XReg) (rs1 : FReg)
  /-- FMV.D.X Fn, Rm (R292) -/
  | fmvDX (rd : FReg) (rs1 : XReg)
  /-- SUB Rn, Rm, Rt (R293) -/
  | sub (rd rs1 rs2 : XReg)
  /-- JALR Rn, Rm, imm (R294) -/
  | jalr (rd rs1 : XReg) (imm : BitVec 12)
  /-- ADDI Rn, Rm, imm (R296) -/
  | addi (rd rs1 : XReg) (imm : BitVec 12)
  deriving DecidableEq, Repr

end Sys2Proof
end

