-- ==== Sys2Proof/WellFormed.lean ====
section
/-! DEFINITION. Static checks on instructions: the rounding-mode field and the evenness of register pairs. -/

namespace Sys2Proof

/-- The codes 101 and 110 of the rm field, which select 128-bit register pairs (R14). -/
def isWideRm (rm : BitVec 3) : Bool := rm == 0b101#3 || rm == 0b110#3

/-- The rm field of an instruction that keeps one as raw bits, and whether the spec lists an X form for its
encoding (R78). -/
def Instr.rmField : Instr → Option (BitVec 3 × Bool)
  | .flh _ _ _ => none
  | .flw _ _ _ => none
  | .fld _ _ _ => none
  | .fsh _ _ _ => none
  | .fsw _ _ _ => none
  | .fsd _ _ _ => none
  | .flx _ _ _ => none
  | .fsx _ _ _ => none
  | .paddS _ _ _ rm => some (rm, true)
  | .psubS _ _ _ rm => some (rm, true)
  | .pmulS _ _ _ rm => some (rm, true)
  | .paddH _ _ _ rm => some (rm, true)
  | .psubH _ _ _ rm => some (rm, true)
  | .pmulH _ _ _ rm => some (rm, true)
  | .pdivS _ _ _ rm => some (rm, true)
  | .pdivH _ _ _ rm => some (rm, true)
  | .paddxS _ _ _ _ => none
  | .psubxS _ _ _ _ => none
  | .pmulxS _ _ _ _ => none
  | .paddxD _ _ _ _ => none
  | .faddD _ _ _ rm => some (rm, true)
  | .psubxD _ _ _ _ => none
  | .fsubD _ _ _ rm => some (rm, true)
  | .pmulxD _ _ _ _ => none
  | .fmulD _ _ _ rm => some (rm, true)
  | .paddxH _ _ _ _ => none
  | .psubxH _ _ _ _ => none
  | .pmulxH _ _ _ _ => none
  | .pdivxS _ _ _ _ => none
  | .pdivxD _ _ _ _ => none
  | .fdivD _ _ _ rm => some (rm, true)
  | .pdivxH _ _ _ _ => none
  | .psgnjS _ _ _ => none
  | .psgnjnS _ _ _ => none
  | .psgnjxS _ _ _ => none
  | .fsgnjD _ _ _ => none
  | .fsgnjnD _ _ _ => none
  | .fsgnjxD _ _ _ => none
  | .psgnjH _ _ _ => none
  | .psgnjnH _ _ _ => none
  | .psgnjxH _ _ _ => none
  | .pminS _ _ _ => none
  | .pmaxS _ _ _ => none
  | .pminH _ _ _ => none
  | .pmaxH _ _ _ => none
  | .fpkbbH _ _ _ => none
  | .fpkbtH _ _ _ => none
  | .fpktbH _ _ _ => none
  | .fpkttH _ _ _ => none
  | .fpkbbS _ _ _ => none
  | .fpkbtS _ _ _ => none
  | .fpktbS _ _ _ => none
  | .fpkttS _ _ _ => none
  | .fcvtSD _ _ rm => some (rm, false)
  | .fcvtDS _ _ rm => some (rm, false)
  | .pcvtSH _ _ rm => some (rm, true)
  | .pcvtHS _ _ rm => some (rm, true)
  | .fcvtDH _ _ rm => some (rm, false)
  | .fcvtHD _ _ rm => some (rm, false)
  | .pcvtSBf16 _ _ rm => some (rm, true)
  | .pcvtBf16S _ _ rm => some (rm, true)
  | .fcvtDBf16 _ _ rm => some (rm, false)
  | .fcvtBf16D _ _ rm => some (rm, false)
  | .pcvthiSH _ _ rm => some (rm, false)
  | .pcvthiSBf16 _ _ rm => some (rm, false)
  | .pcvtxSH _ _ _ => none
  | .pcvtxHS _ _ _ => none
  | .pcvtxSBf16 _ _ _ => none
  | .pcvtxBf16S _ _ _ => none
  | .psqrtS _ _ rm => some (rm, true)
  | .fsqrtD _ _ rm => some (rm, true)
  | .psqrtH _ _ rm => some (rm, false)
  | .psqrtxS _ _ _ => none
  | .psqrtxD _ _ _ => none
  | .prcpaS _ _ => none
  | .frcpaD _ _ => none
  | .prcpaH _ _ => none
  | .psqrtaS _ _ => none
  | .fsqrtaD _ _ => none
  | .psqrtaH _ _ => none
  | .pmaddS _ _ _ _ rm => some (rm, false)
  | .pmaddH _ _ _ _ rm => some (rm, false)
  | .pmsubS _ _ _ _ rm => some (rm, false)
  | .pmsubH _ _ _ _ rm => some (rm, false)
  | .pnmsubS _ _ _ _ rm => some (rm, false)
  | .pnmsubH _ _ _ _ rm => some (rm, false)
  | .pnmaddS _ _ _ _ rm => some (rm, false)
  | .pnmaddH _ _ _ _ rm => some (rm, false)
  | .pack _ _ _ => none
  | .packu _ _ _ => none
  | .pshufW _ _ _ => none
  | .pfshufW _ _ _ => none
  | .pkbb16 _ _ _ => none
  | .pkbt16 _ _ _ => none
  | .pktb16 _ _ _ => none
  | .pktt16 _ _ _ => none
  | .pkbb32 _ _ _ => none
  | .pkbt32 _ _ _ => none
  | .pktb32 _ _ _ => none
  | .pktt32 _ _ _ => none
  | .fleS _ _ _ => none
  | .fltS _ _ _ => none
  | .feqS _ _ _ => none
  | .fleD _ _ _ => none
  | .fltD _ _ _ => none
  | .feqD _ _ _ => none
  | .fleH _ _ _ => none
  | .fltH _ _ _ => none
  | .feqH _ _ _ => none
  | .fmvXD _ _ => none
  | .fmvDX _ _ => none
  | .sub _ _ _ => none
  | .jalr _ _ _ => none
  | .addi _ _ _ => none

/-- The register numbers of the pair operands XFn, XFm, XFt of an instruction (R79). -/
def Instr.pairOperands : Instr → List FReg
  | .flh _ _ _ => []
  | .flw _ _ _ => []
  | .fld _ _ _ => []
  | .fsh _ _ _ => []
  | .fsw _ _ _ => []
  | .fsd _ _ _ => []
  | .flx rd _ _ => [rd]
  | .fsx _ _ rs2 => [rs2]
  | .paddS _ _ _ _ => []
  | .psubS _ _ _ _ => []
  | .pmulS _ _ _ _ => []
  | .paddH _ _ _ _ => []
  | .psubH _ _ _ _ => []
  | .pmulH _ _ _ _ => []
  | .pdivS _ _ _ _ => []
  | .pdivH _ _ _ _ => []
  | .paddxS rd rs1 rs2 _ => [rd, rs1, rs2]
  | .psubxS rd rs1 rs2 _ => [rd, rs1, rs2]
  | .pmulxS rd rs1 rs2 _ => [rd, rs1, rs2]
  | .paddxD rd rs1 rs2 _ => [rd, rs1, rs2]
  | .faddD _ _ _ _ => []
  | .psubxD rd rs1 rs2 _ => [rd, rs1, rs2]
  | .fsubD _ _ _ _ => []
  | .pmulxD rd rs1 rs2 _ => [rd, rs1, rs2]
  | .fmulD _ _ _ _ => []
  | .paddxH rd rs1 rs2 _ => [rd, rs1, rs2]
  | .psubxH rd rs1 rs2 _ => [rd, rs1, rs2]
  | .pmulxH rd rs1 rs2 _ => [rd, rs1, rs2]
  | .pdivxS rd rs1 rs2 _ => [rd, rs1, rs2]
  | .pdivxD rd rs1 rs2 _ => [rd, rs1, rs2]
  | .fdivD _ _ _ _ => []
  | .pdivxH rd rs1 rs2 _ => [rd, rs1, rs2]
  | .psgnjS _ _ _ => []
  | .psgnjnS _ _ _ => []
  | .psgnjxS _ _ _ => []
  | .fsgnjD _ _ _ => []
  | .fsgnjnD _ _ _ => []
  | .fsgnjxD _ _ _ => []
  | .psgnjH _ _ _ => []
  | .psgnjnH _ _ _ => []
  | .psgnjxH _ _ _ => []
  | .pminS _ _ _ => []
  | .pmaxS _ _ _ => []
  | .pminH _ _ _ => []
  | .pmaxH _ _ _ => []
  | .fpkbbH _ _ _ => []
  | .fpkbtH _ _ _ => []
  | .fpktbH _ _ _ => []
  | .fpkttH _ _ _ => []
  | .fpkbbS _ _ _ => []
  | .fpkbtS _ _ _ => []
  | .fpktbS _ _ _ => []
  | .fpkttS _ _ _ => []
  | .fcvtSD _ _ _ => []
  | .fcvtDS _ _ _ => []
  | .pcvtSH _ _ _ => []
  | .pcvtHS _ _ _ => []
  | .fcvtDH _ _ _ => []
  | .fcvtHD _ _ _ => []
  | .pcvtSBf16 _ _ _ => []
  | .pcvtBf16S _ _ _ => []
  | .fcvtDBf16 _ _ _ => []
  | .fcvtBf16D _ _ _ => []
  | .pcvthiSH _ _ _ => []
  | .pcvthiSBf16 _ _ _ => []
  | .pcvtxSH rd _ _ => [rd]
  | .pcvtxHS _ rs1 _ => [rs1]
  | .pcvtxSBf16 rd _ _ => [rd]
  | .pcvtxBf16S _ rs1 _ => [rs1]
  | .psqrtS _ _ _ => []
  | .fsqrtD _ _ _ => []
  | .psqrtH _ _ _ => []
  | .psqrtxS rd rs1 _ => [rd, rs1]
  | .psqrtxD rd rs1 _ => [rd, rs1]
  | .prcpaS _ _ => []
  | .frcpaD _ _ => []
  | .prcpaH _ _ => []
  | .psqrtaS _ _ => []
  | .fsqrtaD _ _ => []
  | .psqrtaH _ _ => []
  | .pmaddS _ _ _ _ _ => []
  | .pmaddH _ _ _ _ _ => []
  | .pmsubS _ _ _ _ _ => []
  | .pmsubH _ _ _ _ _ => []
  | .pnmsubS _ _ _ _ _ => []
  | .pnmsubH _ _ _ _ _ => []
  | .pnmaddS _ _ _ _ _ => []
  | .pnmaddH _ _ _ _ _ => []
  | .pack _ _ _ => []
  | .packu _ _ _ => []
  | .pshufW _ _ _ => []
  | .pfshufW _ _ _ => []
  | .pkbb16 _ _ _ => []
  | .pkbt16 _ _ _ => []
  | .pktb16 _ _ _ => []
  | .pktt16 _ _ _ => []
  | .pkbb32 _ _ _ => []
  | .pkbt32 _ _ _ => []
  | .pktb32 _ _ _ => []
  | .pktt32 _ _ _ => []
  | .fleS _ _ _ => []
  | .fltS _ _ _ => []
  | .feqS _ _ _ => []
  | .fleD _ _ _ => []
  | .fltD _ _ _ => []
  | .feqD _ _ _ => []
  | .fleH _ _ _ => []
  | .fltH _ _ _ => []
  | .feqH _ _ _ => []
  | .fmvXD _ _ => []
  | .fmvDX _ _ => []
  | .sub _ _ _ => []
  | .jalr _ _ _ => []
  | .addi _ _ _ => []

/-- The instruction is the one its own encoding decodes to: an instruction whose encoding has a listed X form
carries no 2x code, since with one its word is the X form's (R70, R78). -/
def Instr.canonical (i : Instr) : Bool :=
  match i.rmField with
  | some (rm, true) => !isWideRm rm
  | _ => true

/-- An instruction with an rm field and no listed X form carries no 2x code, which is reserved there (R78). -/
def Instr.rmLegal (i : Instr) : Bool :=
  match i.rmField with
  | some (rm, false) => !isWideRm rm
  | _ => true

/-- "Only even numbered register numbers will be allowed" in a pair operand (R22, R79). -/
def Instr.pairsEven (i : Instr) : Bool := i.pairOperands.all fun r => !r.getLsbD 0

/-- A legal assembler line: its word decodes back to it, and no operand makes the word reserved. -/
def Instr.wellFormed (i : Instr) : Bool := i.canonical && i.rmLegal && i.pairsEven

end Sys2Proof
end

