-- ==== Sys2Proof/Decode.lean ====
section
/-! DEFINITION. The decoder (30_encoding.md rules R60 to R81) and, after it, the encoder, written from the same
formats. Every format of R61 to R65 cuts the word at the same places, so both go through the seven fields of
format R. -/

namespace Sys2Proof

/-! ### Fields -/

/-- The fields of an instruction word: funct7 (31:25), rs2 (24:20), rs1 (19:15), funct3 or rm (14:12), rd (11:7),
opcode (6:0) (R61). -/
structure Fields where
  f7 : BitVec 7
  rs2 : BitVec 5
  rs1 : BitVec 5
  f3 : BitVec 3
  rd : BitVec 5
  op : BitVec 7
  deriving DecidableEq, Repr

/-- The word with the given fields (R61). -/
def Fields.word (F : Fields) : InsnWord := F.f7 ++ F.rs2 ++ F.rs1 ++ F.f3 ++ F.rd ++ F.op

/-- The fields of a word (R61). -/
def fieldsOf (w : InsnWord) : Fields :=
  { f7 := w.extractLsb' 25 7, rs2 := w.extractLsb' 20 5, rs1 := w.extractLsb' 15 5, f3 := w.extractLsb' 12 3,
    rd := w.extractLsb' 7 5, op := w.extractLsb' 0 7 }

/-- `funct5`, bits 31:27: the operation of an OP-FP word, and `rs3` in format R4 (R61, R62). -/
def Fields.funct5 (F : Fields) : BitVec 5 := F.f7.extractLsb' 2 5

/-- The type bits 26:25 (R15). -/
def Fields.fmt (F : Fields) : BitVec 2 := F.f7.extractLsb' 0 2

/-- Disp12_I, bits 31:20 (R66). -/
def Fields.immI (F : Fields) : BitVec 12 := F.f7 ++ F.rs2

/-- Disp12_S, bits 31:25 above bits 11:7 (R67). -/
def Fields.immS (F : Fields) : BitVec 12 := F.f7 ++ F.rd

/-- Imm8, bits 27:20 (R68). -/
def Fields.imm8 (F : Fields) : BitVec 8 := F.f7.extractLsb' 0 3 ++ F.rs2

/-! ### Decoder -/

/-- Why a word is reserved: it raises `IllegalInstruction` (R77, R81). -/
inductive ReservedWhy where
  /-- type bits 11, Binary128 (R77 a) -/
  | typeBits
  /-- LOAD-FP or STORE-FP with funct3 000, 101, 110 or 111 (R73, R77 b) -/
  | loadStoreWidth
  /-- a code that is not assigned inside a function group of the spec (R81, R238) -/
  | unassigned
  deriving DecidableEq, Repr

/-- What a word decodes to (R70). -/
inductive Decoded where
  /-- an instruction of the spec -/
  | instr (i : Instr)
  /-- a reserved encoding: raises `IllegalInstruction` (R77, R81) -/
  | reserved (why : ReservedWhy)
  /-- a word outside every opcode space of the spec: refused, neither faulted nor skipped (R70, R303) -/
  | notOfThisSpec
  /-- fewer than the four bytes of an instruction were given (R60) -/
  | truncated
  deriving DecidableEq, Repr

/-- The instruction of a decoded word, where it is one. -/
def Decoded.toOption : Decoded → Option Instr
  | .instr i => some i
  | .reserved _ => none
  | .notOfThisSpec => none
  | .truncated => none

/-- The rm codes 101 and 110 as the rounding of an X form (R14). -/
def XRm.ofBits (rm : BitVec 3) : Option XRm :=
  if rm = 0b101#3 then some .rtz2 else if rm = 0b110#3 then some .rne2 else none

/-- The rm code of an X form (R14). -/
def XRm.bits : XRm → BitVec 3
  | .rtz2 => 0b101#3
  | .rne2 => 0b110#3

/-- Selects by the type bits: S, D, H; the code 11 is Binary128, reserved (R15, R77). -/
def byFmt (F : Fields) (s d h : Decoded) : Decoded :=
  match F.fmt with
  | 0b00#2 => s
  | 0b01#2 => d
  | 0b10#2 => h
  | _ => .reserved .typeBits

/-- A three-register word that is its X form when rm is 101 or 110 (R70, R136). -/
def arithOrX (F : Fields) (narrow : FReg → FReg → FReg → BitVec 3 → Instr) (wide : FReg → FReg → FReg → XRm → Instr) :
    Decoded :=
  match XRm.ofBits F.f3 with
  | some x => .instr (wide F.rd F.rs1 F.rs2 x)
  | none => .instr (narrow F.rd F.rs1 F.rs2 F.f3)

/-- A one-source word that is its X form when rm is 101 or 110 (R70, R78). -/
def unaryOrX (F : Fields) (narrow : FReg → FReg → BitVec 3 → Instr) (wide : FReg → FReg → XRm → Instr) : Decoded :=
  match XRm.ofBits F.f3 with
  | some x => .instr (wide F.rd F.rs1 x)
  | none => .instr (narrow F.rd F.rs1 F.f3)

/-- LOAD-FP (R73): the widths the V extension took are reserved (R77 b). -/
def decodeLoad (F : Fields) : Decoded :=
  match F.f3 with
  | 0b001#3 => .instr (.flh F.rd F.rs1 F.immI)
  | 0b010#3 => .instr (.flw F.rd F.rs1 F.immI)
  | 0b011#3 => .instr (.fld F.rd F.rs1 F.immI)
  | 0b100#3 => .instr (.flx F.rd F.rs1 F.immI)
  | _ => .reserved .loadStoreWidth

/-- STORE-FP (R73, R77 b). -/
def decodeStore (F : Fields) : Decoded :=
  match F.f3 with
  | 0b001#3 => .instr (.fsh F.rs1 F.immS F.rs2)
  | 0b010#3 => .instr (.fsw F.rs1 F.immS F.rs2)
  | 0b011#3 => .instr (.fsd F.rs1 F.immS F.rs2)
  | 0b100#3 => .instr (.fsx F.rs1 F.immS F.rs2)
  | _ => .reserved .loadStoreWidth

/-- funct5 00100, type bits 00: sign injection and the .H packs (R71, R192). -/
def decodeSignPackS (F : Fields) : Decoded :=
  match F.f3 with
  | 0b000#3 => .instr (.psgnjS F.rd F.rs1 F.rs2)
  | 0b001#3 => .instr (.psgnjnS F.rd F.rs1 F.rs2)
  | 0b010#3 => .instr (.psgnjxS F.rd F.rs1 F.rs2)
  | 0b100#3 => .instr (.fpkbbH F.rd F.rs1 F.rs2)
  | 0b101#3 => .instr (.fpkbtH F.rd F.rs1 F.rs2)
  | 0b110#3 => .instr (.fpktbH F.rd F.rs1 F.rs2)
  | 0b111#3 => .instr (.fpkttH F.rd F.rs1 F.rs2)
  | _ => .reserved .unassigned

/-- funct5 00100, type bits 01: sign injection and the .S packs (R71, R192). -/
def decodeSignPackD (F : Fields) : Decoded :=
  match F.f3 with
  | 0b000#3 => .instr (.fsgnjD F.rd F.rs1 F.rs2)
  | 0b001#3 => .instr (.fsgnjnD F.rd F.rs1 F.rs2)
  | 0b010#3 => .instr (.fsgnjxD F.rd F.rs1 F.rs2)
  | 0b100#3 => .instr (.fpkbbS F.rd F.rs1 F.rs2)
  | 0b101#3 => .instr (.fpkbtS F.rd F.rs1 F.rs2)
  | 0b110#3 => .instr (.fpktbS F.rd F.rs1 F.rs2)
  | 0b111#3 => .instr (.fpkttS F.rd F.rs1 F.rs2)
  | _ => .reserved .unassigned

/-- funct5 00100, type bits 10: sign injection; the pack codes are unassigned here (R81, R192). -/
def decodeSignPackH (F : Fields) : Decoded :=
  match F.f3 with
  | 0b000#3 => .instr (.psgnjH F.rd F.rs1 F.rs2)
  | 0b001#3 => .instr (.psgnjnH F.rd F.rs1 F.rs2)
  | 0b010#3 => .instr (.psgnjxH F.rd F.rs1 F.rs2)
  | _ => .reserved .unassigned

/-- funct5 00101: minimum and maximum by funct3 (R71); funct3 010 to 111 are unassigned (R81). -/
def decodeMinMax (F : Fields) (mn mx : Decoded) : Decoded :=
  match F.f3 with
  | 0b000#3 => mn
  | 0b001#3 => mx
  | _ => .reserved .unassigned

/-- funct5 01000, destination Binary32 (R72). -/
def decodeCvtToS (F : Fields) : Decoded :=
  match F.rs2 with
  | 0b00001#5 => .instr (.fcvtSD F.rd F.rs1 F.f3)
  | 0b00010#5 => unaryOrX F .pcvtSH .pcvtxSH
  | 0b00110#5 => unaryOrX F .pcvtSBf16 .pcvtxSBf16
  | 0b01010#5 => .instr (.pcvthiSH F.rd F.rs1 F.f3)
  | 0b01110#5 => .instr (.pcvthiSBf16 F.rd F.rs1 F.f3)
  | _ => .reserved .unassigned

/-- funct5 01000, destination Binary64 (R72). -/
def decodeCvtToD (F : Fields) : Decoded :=
  match F.rs2 with
  | 0b00000#5 => .instr (.fcvtDS F.rd F.rs1 F.f3)
  | 0b00010#5 => .instr (.fcvtDH F.rd F.rs1 F.f3)
  | 0b00110#5 => .instr (.fcvtDBf16 F.rd F.rs1 F.f3)
  | _ => .reserved .unassigned

/-- funct5 01000, destination Binary16 or BF16 (R72). -/
def decodeCvtToH (F : Fields) : Decoded :=
  match F.rs2 with
  | 0b00000#5 => unaryOrX F .pcvtHS .pcvtxHS
  | 0b00001#5 => .instr (.fcvtHD F.rd F.rs1 F.f3)
  | 0b01000#5 => unaryOrX F .pcvtBf16S .pcvtxBf16S
  | 0b01001#5 => .instr (.fcvtBf16D F.rd F.rs1 F.f3)
  | _ => .reserved .unassigned

/-- funct5 10100: the compares (R71, R170). Other funct3 codes are in no list of R81: outside the spec. -/
def decodeCompare (F : Fields) (le lt eq : Decoded) : Decoded :=
  match F.f3 with
  | 0b000#3 => le
  | 0b001#3 => lt
  | 0b010#3 => eq
  | _ => .notOfThisSpec

/-- funct5 11110, funct3 001: the helper operations; other sub-codes are unassigned (R81, R238). -/
def decodeHelper (F : Fields) (rcpa sqrta : FReg → FReg → Instr) : Decoded :=
  match F.rs2 with
  | 0b00001#5 => .instr (rcpa F.rd F.rs1)
  | 0b00010#5 => .instr (sqrta F.rd F.rs1)
  | _ => .reserved .unassigned

/-- funct5 11110, funct3 000: FMV.D.X (R292). The .S and .H twins with rs2 00000 are FMV.W.X and FMV.H.X, which R4
leaves outside the spec; the other sub-codes are reserved (R238). DEDUCED (log 15). -/
def decodeMoveToF (F : Fields) : Decoded :=
  match F.rs2 with
  | 0b00000#5 => byFmt F .notOfThisSpec (.instr (.fmvDX F.rd F.rs1)) .notOfThisSpec
  | _ => byFmt F (.reserved .unassigned) (.reserved .unassigned) (.reserved .unassigned)

/-- funct5 11110 (R71, R238). -/
def decodeHelperGroup (F : Fields) : Decoded :=
  match F.f3 with
  | 0b000#3 => decodeMoveToF F
  | 0b001#3 =>
    byFmt F (decodeHelper F .prcpaS .psqrtaS) (decodeHelper F .frcpaD .fsqrtaD) (decodeHelper F .prcpaH .psqrtaH)
  | _ => byFmt F (.reserved .unassigned) (.reserved .unassigned) (.reserved .unassigned)

/-- funct5 11100: FMV.X.D (R291); its neighbours are outside the spec (R4, R303). -/
def decodeMoveFromF (F : Fields) : Decoded :=
  match F.rs2, F.f3 with
  | 0b00000#5, 0b000#3 => .instr (.fmvXD F.rd F.rs1)
  | _, _ => .notOfThisSpec

/-- A square-root word: the rs2 field is 00000, other values are reserved (R81, R230). -/
def decodeSqrt (F : Fields) (d : Decoded) : Decoded :=
  match F.rs2 with
  | 0b00000#5 => d
  | _ => .reserved .unassigned

/-- OP-FP, opcode 1010011 (R71). -/
def decodeOpFp (F : Fields) : Decoded :=
  match F.funct5 with
  | 0b00000#5 => byFmt F (arithOrX F .paddS .paddxS) (arithOrX F .faddD .paddxD) (arithOrX F .paddH .paddxH)
  | 0b00001#5 => byFmt F (arithOrX F .psubS .psubxS) (arithOrX F .fsubD .psubxD) (arithOrX F .psubH .psubxH)
  | 0b00010#5 => byFmt F (arithOrX F .pmulS .pmulxS) (arithOrX F .fmulD .pmulxD) (arithOrX F .pmulH .pmulxH)
  | 0b00011#5 => byFmt F (arithOrX F .pdivS .pdivxS) (arithOrX F .fdivD .pdivxD) (arithOrX F .pdivH .pdivxH)
  | 0b00100#5 => byFmt F (decodeSignPackS F) (decodeSignPackD F) (decodeSignPackH F)
  | 0b00101#5 =>
    byFmt F (decodeMinMax F (.instr (.pminS F.rd F.rs1 F.rs2)) (.instr (.pmaxS F.rd F.rs1 F.rs2)))
      (decodeMinMax F .notOfThisSpec .notOfThisSpec)
      (decodeMinMax F (.instr (.pminH F.rd F.rs1 F.rs2)) (.instr (.pmaxH F.rd F.rs1 F.rs2)))
  | 0b01000#5 => byFmt F (decodeCvtToS F) (decodeCvtToD F) (decodeCvtToH F)
  | 0b01011#5 =>
    byFmt F (decodeSqrt F (unaryOrX F .psqrtS .psqrtxS)) (decodeSqrt F (unaryOrX F .fsqrtD .psqrtxD))
      (decodeSqrt F (.instr (.psqrtH F.rd F.rs1 F.f3)))
  | 0b10100#5 =>
    byFmt F
      (decodeCompare F (.instr (.fleS F.rd F.rs1 F.rs2)) (.instr (.fltS F.rd F.rs1 F.rs2)) (.instr (.feqS F.rd F.rs1 F.rs2)))
      (decodeCompare F (.instr (.fleD F.rd F.rs1 F.rs2)) (.instr (.fltD F.rd F.rs1 F.rs2)) (.instr (.feqD F.rd F.rs1 F.rs2)))
      (decodeCompare F (.instr (.fleH F.rd F.rs1 F.rs2)) (.instr (.fltH F.rd F.rs1 F.rs2)) (.instr (.feqH F.rd F.rs1 F.rs2)))
  | 0b11100#5 => byFmt F .notOfThisSpec (decodeMoveFromF F) .notOfThisSpec
  | 0b11110#5 => decodeHelperGroup F
  | _ => .notOfThisSpec

/-- The PMADD family (R74): type bits 01 are the scalar FMADD.D family, outside the spec (R4). -/
def decodeFma (F : Fields) (s h : FReg → FReg → FReg → FReg → BitVec 3 → Instr) : Decoded :=
  byFmt F (.instr (s F.rd F.rs1 F.rs2 F.funct5 F.f3)) .notOfThisSpec (.instr (h F.rd F.rs1 F.rs2 F.funct5 F.f3))

/-- OP, opcode 0110011: PACK, PACKU and the imported SUB (R75, R293). -/
def decodeOp (F : Fields) : Decoded :=
  match F.f7, F.f3 with
  | 0b0000100#7, 0b100#3 => .instr (.pack F.rd F.rs1 F.rs2)
  | 0b0100100#7, 0b100#3 => .instr (.packu F.rd F.rs1 F.rs2)
  | 0b0100000#7, 0b000#3 => .instr (.sub F.rd F.rs1 F.rs2)
  | _, _ => .notOfThisSpec

/-- OP-IMM-32, opcode 0011011: the shuffles, by bits 31:28 (R65, R75). -/
def decodeShuffle (F : Fields) : Decoded :=
  match F.f7.extractLsb' 3 4, F.f3 with
  | 0b0100#4, 0b001#3 => .instr (.pshufW F.rd F.rs1 F.imm8)
  | 0b0110#4, 0b001#3 => .instr (.pfshufW F.rd F.rs1 F.imm8)
  | _, _ => .notOfThisSpec

/-- One element size of opcode 1110111, by funct7 (R75); other funct7 codes are unassigned (R81). -/
def decodePk (F : Fields) (bb bt tb tt : XReg → XReg → XReg → Instr) : Decoded :=
  match F.f7 with
  | 0b0000111#7 => .instr (bb F.rd F.rs1 F.rs2)
  | 0b0001111#7 => .instr (bt F.rd F.rs1 F.rs2)
  | 0b0010111#7 => .instr (tb F.rd F.rs1 F.rs2)
  | 0b0011111#7 => .instr (tt F.rd F.rs1 F.rs2)
  | _ => .reserved .unassigned

/-- Opcode 1110111: 16-bit elements with funct3 001, 32-bit elements with funct3 010 (R75). -/
def decodePkGroup (F : Fields) : Decoded :=
  match F.f3 with
  | 0b001#3 => decodePk F .pkbb16 .pkbt16 .pktb16 .pktt16
  | 0b010#3 => decodePk F .pkbb32 .pkbt32 .pktb32 .pktt32
  | _ => .notOfThisSpec

/-- ADDI and JALR: funct3 000 of their opcodes (R294, R296). -/
def decodeImport (F : Fields) (c : XReg → XReg → BitVec 12 → Instr) : Decoded :=
  match F.f3 with
  | 0b000#3 => .instr (c F.rd F.rs1 F.immI)
  | _ => .notOfThisSpec

/-- The decode procedure of R70 on fields, by major opcode (R69). -/
def decodeFields (F : Fields) : Decoded :=
  match F.op with
  | 0b0000111#7 => decodeLoad F
  | 0b0100111#7 => decodeStore F
  | 0b1010011#7 => decodeOpFp F
  | 0b1000011#7 => decodeFma F .pmaddS .pmaddH
  | 0b1000111#7 => decodeFma F .pmsubS .pmsubH
  | 0b1001011#7 => decodeFma F .pnmsubS .pnmsubH
  | 0b1001111#7 => decodeFma F .pnmaddS .pnmaddH
  | 0b0110011#7 => decodeOp F
  | 0b0011011#7 => decodeShuffle F
  | 0b1110111#7 => decodePkGroup F
  | 0b0010011#7 => decodeImport F .addi
  | 0b1100111#7 => decodeImport F .jalr
  | _ => .notOfThisSpec

/-- The decode procedure of R70: total, and rejecting by name. The feature, pair and `frm` checks of R78 to R80
and R26 are made where the instruction executes, as the instructions' own pseudocode has them. -/
def decode (w : InsnWord) : Decoded := decodeFields (fieldsOf w)

/-- The decoder on bytes as they lie in memory, lowest address first: instructions are little-endian 32-bit words
(R41, R60). -/
def decodeBytes : List Byte → Decoded
  | b0 :: b1 :: b2 :: b3 :: _ => decode (b3 ++ b2 ++ b1 ++ b0)
  | _ => .truncated

/-- The four bytes of a word, lowest address first (R41). -/
def wordBytes (w : InsnWord) : List Byte :=
  [w.extractLsb' 0 8, w.extractLsb' 8 8, w.extractLsb' 16 8, w.extractLsb' 24 8]

/-- The instruction the decoder reads from an instruction whose bits are `w`, of which the table gives `nbits`
(every row of spec/opcode_table.json has 32). -/
def decodeTableWord (nbits w : Nat) : Option Instr :=
  (decodeBytes (wordBytes (BitVec.ofNat 32 (w % 2 ^ nbits)))).toOption

/-! ### Encoder -/

/-- Format R (R61). -/
def encR (f7 : BitVec 7) (rs2 rs1 : BitVec 5) (f3 : BitVec 3) (rd : BitVec 5) (op : BitVec 7) : Fields :=
  ⟨f7, rs2, rs1, f3, rd, op⟩

/-- Format R4: `rs3` above the type bits (R62). -/
def encR4 (rs3 : BitVec 5) (fmt : BitVec 2) (rs2 rs1 : BitVec 5) (rm : BitVec 3) (rd : BitVec 5) (op : BitVec 7) :
    Fields :=
  ⟨rs3 ++ fmt, rs2, rs1, rm, rd, op⟩

/-- Format I: imm[11:0] in bits 31:20 (R63, R66). -/
def encI (imm : BitVec 12) (rs1 : BitVec 5) (f3 : BitVec 3) (rd : BitVec 5) (op : BitVec 7) : Fields :=
  ⟨imm.extractLsb' 5 7, imm.extractLsb' 0 5, rs1, f3, rd, op⟩

/-- Format S: imm[11:5] in bits 31:25, imm[4:0] in bits 11:7 (R64, R67). -/
def encS (imm : BitVec 12) (rs2 rs1 : BitVec 5) (f3 : BitVec 3) (op : BitVec 7) : Fields :=
  ⟨imm.extractLsb' 5 7, rs2, rs1, f3, imm.extractLsb' 0 5, op⟩

/-- Format I8: funct4 in bits 31:28, imm8 in bits 27:20 (R65, R68). -/
def encI8 (funct4 : BitVec 4) (imm : BitVec 8) (rs1 : BitVec 5) (f3 : BitVec 3) (rd : BitVec 5) (op : BitVec 7) :
    Fields :=
  ⟨funct4 ++ imm.extractLsb' 5 3, imm.extractLsb' 0 5, rs1, f3, rd, op⟩

/-- The fields of each instruction, from its pattern in the spec. -/
def encodeFields : Instr → Fields
  | .flh rd rs1 imm => encI imm rs1 0b001#3 rd 0b0000111#7
  | .flw rd rs1 imm => encI imm rs1 0b010#3 rd 0b0000111#7
  | .fld rd rs1 imm => encI imm rs1 0b011#3 rd 0b0000111#7
  | .fsh rs1 imm rs2 => encS imm rs2 rs1 0b001#3 0b0100111#7
  | .fsw rs1 imm rs2 => encS imm rs2 rs1 0b010#3 0b0100111#7
  | .fsd rs1 imm rs2 => encS imm rs2 rs1 0b011#3 0b0100111#7
  | .flx rd rs1 imm => encI imm rs1 0b100#3 rd 0b0000111#7
  | .fsx rs1 imm rs2 => encS imm rs2 rs1 0b100#3 0b0100111#7
  | .paddS rd rs1 rs2 rm => encR 0b0000000#7 rs2 rs1 rm rd 0b1010011#7
  | .psubS rd rs1 rs2 rm => encR 0b0000100#7 rs2 rs1 rm rd 0b1010011#7
  | .pmulS rd rs1 rs2 rm => encR 0b0001000#7 rs2 rs1 rm rd 0b1010011#7
  | .paddH rd rs1 rs2 rm => encR 0b0000010#7 rs2 rs1 rm rd 0b1010011#7
  | .psubH rd rs1 rs2 rm => encR 0b0000110#7 rs2 rs1 rm rd 0b1010011#7
  | .pmulH rd rs1 rs2 rm => encR 0b0001010#7 rs2 rs1 rm rd 0b1010011#7
  | .pdivS rd rs1 rs2 rm => encR 0b0001100#7 rs2 rs1 rm rd 0b1010011#7
  | .pdivH rd rs1 rs2 rm => encR 0b0001110#7 rs2 rs1 rm rd 0b1010011#7
  | .paddxS rd rs1 rs2 rm => encR 0b0000000#7 rs2 rs1 rm.bits rd 0b1010011#7
  | .psubxS rd rs1 rs2 rm => encR 0b0000100#7 rs2 rs1 rm.bits rd 0b1010011#7
  | .pmulxS rd rs1 rs2 rm => encR 0b0001000#7 rs2 rs1 rm.bits rd 0b1010011#7
  | .paddxD rd rs1 rs2 rm => encR 0b0000001#7 rs2 rs1 rm.bits rd 0b1010011#7
  | .faddD rd rs1 rs2 rm => encR 0b0000001#7 rs2 rs1 rm rd 0b1010011#7
  | .psubxD rd rs1 rs2 rm => encR 0b0000101#7 rs2 rs1 rm.bits rd 0b1010011#7
  | .fsubD rd rs1 rs2 rm => encR 0b0000101#7 rs2 rs1 rm rd 0b1010011#7
  | .pmulxD rd rs1 rs2 rm => encR 0b0001001#7 rs2 rs1 rm.bits rd 0b1010011#7
  | .fmulD rd rs1 rs2 rm => encR 0b0001001#7 rs2 rs1 rm rd 0b1010011#7
  | .paddxH rd rs1 rs2 rm => encR 0b0000010#7 rs2 rs1 rm.bits rd 0b1010011#7
  | .psubxH rd rs1 rs2 rm => encR 0b0000110#7 rs2 rs1 rm.bits rd 0b1010011#7
  | .pmulxH rd rs1 rs2 rm => encR 0b0001010#7 rs2 rs1 rm.bits rd 0b1010011#7
  | .pdivxS rd rs1 rs2 rm => encR 0b0001100#7 rs2 rs1 rm.bits rd 0b1010011#7
  | .pdivxD rd rs1 rs2 rm => encR 0b0001101#7 rs2 rs1 rm.bits rd 0b1010011#7
  | .fdivD rd rs1 rs2 rm => encR 0b0001101#7 rs2 rs1 rm rd 0b1010011#7
  | .pdivxH rd rs1 rs2 rm => encR 0b0001110#7 rs2 rs1 rm.bits rd 0b1010011#7
  | .psgnjS rd rs1 rs2 => encR 0b0010000#7 rs2 rs1 0b000#3 rd 0b1010011#7
  | .psgnjnS rd rs1 rs2 => encR 0b0010000#7 rs2 rs1 0b001#3 rd 0b1010011#7
  | .psgnjxS rd rs1 rs2 => encR 0b0010000#7 rs2 rs1 0b010#3 rd 0b1010011#7
  | .fsgnjD rd rs1 rs2 => encR 0b0010001#7 rs2 rs1 0b000#3 rd 0b1010011#7
  | .fsgnjnD rd rs1 rs2 => encR 0b0010001#7 rs2 rs1 0b001#3 rd 0b1010011#7
  | .fsgnjxD rd rs1 rs2 => encR 0b0010001#7 rs2 rs1 0b010#3 rd 0b1010011#7
  | .psgnjH rd rs1 rs2 => encR 0b0010010#7 rs2 rs1 0b000#3 rd 0b1010011#7
  | .psgnjnH rd rs1 rs2 => encR 0b0010010#7 rs2 rs1 0b001#3 rd 0b1010011#7
  | .psgnjxH rd rs1 rs2 => encR 0b0010010#7 rs2 rs1 0b010#3 rd 0b1010011#7
  | .pminS rd rs1 rs2 => encR 0b0010100#7 rs2 rs1 0b000#3 rd 0b1010011#7
  | .pmaxS rd rs1 rs2 => encR 0b0010100#7 rs2 rs1 0b001#3 rd 0b1010011#7
  | .pminH rd rs1 rs2 => encR 0b0010110#7 rs2 rs1 0b000#3 rd 0b1010011#7
  | .pmaxH rd rs1 rs2 => encR 0b0010110#7 rs2 rs1 0b001#3 rd 0b1010011#7
  | .fpkbbH rd rs1 rs2 => encR 0b0010000#7 rs2 rs1 0b100#3 rd 0b1010011#7
  | .fpkbtH rd rs1 rs2 => encR 0b0010000#7 rs2 rs1 0b101#3 rd 0b1010011#7
  | .fpktbH rd rs1 rs2 => encR 0b0010000#7 rs2 rs1 0b110#3 rd 0b1010011#7
  | .fpkttH rd rs1 rs2 => encR 0b0010000#7 rs2 rs1 0b111#3 rd 0b1010011#7
  | .fpkbbS rd rs1 rs2 => encR 0b0010001#7 rs2 rs1 0b100#3 rd 0b1010011#7
  | .fpkbtS rd rs1 rs2 => encR 0b0010001#7 rs2 rs1 0b101#3 rd 0b1010011#7
  | .fpktbS rd rs1 rs2 => encR 0b0010001#7 rs2 rs1 0b110#3 rd 0b1010011#7
  | .fpkttS rd rs1 rs2 => encR 0b0010001#7 rs2 rs1 0b111#3 rd 0b1010011#7
  | .fcvtSD rd rs1 rm => encR 0b0100000#7 0b00001#5 rs1 rm rd 0b1010011#7
  | .fcvtDS rd rs1 rm => encR 0b0100001#7 0b00000#5 rs1 rm rd 0b1010011#7
  | .pcvtSH rd rs1 rm => encR 0b0100000#7 0b00010#5 rs1 rm rd 0b1010011#7
  | .pcvtHS rd rs1 rm => encR 0b0100010#7 0b00000#5 rs1 rm rd 0b1010011#7
  | .fcvtDH rd rs1 rm => encR 0b0100001#7 0b00010#5 rs1 rm rd 0b1010011#7
  | .fcvtHD rd rs1 rm => encR 0b0100010#7 0b00001#5 rs1 rm rd 0b1010011#7
  | .pcvtSBf16 rd rs1 rm => encR 0b0100000#7 0b00110#5 rs1 rm rd 0b1010011#7
  | .pcvtBf16S rd rs1 rm => encR 0b0100010#7 0b01000#5 rs1 rm rd 0b1010011#7
  | .fcvtDBf16 rd rs1 rm => encR 0b0100001#7 0b00110#5 rs1 rm rd 0b1010011#7
  | .fcvtBf16D rd rs1 rm => encR 0b0100010#7 0b01001#5 rs1 rm rd 0b1010011#7
  | .pcvthiSH rd rs1 rm => encR 0b0100000#7 0b01010#5 rs1 rm rd 0b1010011#7
  | .pcvthiSBf16 rd rs1 rm => encR 0b0100000#7 0b01110#5 rs1 rm rd 0b1010011#7
  | .pcvtxSH rd rs1 rm => encR 0b0100000#7 0b00010#5 rs1 rm.bits rd 0b1010011#7
  | .pcvtxHS rd rs1 rm => encR 0b0100010#7 0b00000#5 rs1 rm.bits rd 0b1010011#7
  | .pcvtxSBf16 rd rs1 rm => encR 0b0100000#7 0b00110#5 rs1 rm.bits rd 0b1010011#7
  | .pcvtxBf16S rd rs1 rm => encR 0b0100010#7 0b01000#5 rs1 rm.bits rd 0b1010011#7
  | .psqrtS rd rs1 rm => encR 0b0101100#7 0b00000#5 rs1 rm rd 0b1010011#7
  | .fsqrtD rd rs1 rm => encR 0b0101101#7 0b00000#5 rs1 rm rd 0b1010011#7
  | .psqrtH rd rs1 rm => encR 0b0101110#7 0b00000#5 rs1 rm rd 0b1010011#7
  | .psqrtxS rd rs1 rm => encR 0b0101100#7 0b00000#5 rs1 rm.bits rd 0b1010011#7
  | .psqrtxD rd rs1 rm => encR 0b0101101#7 0b00000#5 rs1 rm.bits rd 0b1010011#7
  | .prcpaS rd rs1 => encR 0b1111000#7 0b00001#5 rs1 0b001#3 rd 0b1010011#7
  | .frcpaD rd rs1 => encR 0b1111001#7 0b00001#5 rs1 0b001#3 rd 0b1010011#7
  | .prcpaH rd rs1 => encR 0b1111010#7 0b00001#5 rs1 0b001#3 rd 0b1010011#7
  | .psqrtaS rd rs1 => encR 0b1111000#7 0b00010#5 rs1 0b001#3 rd 0b1010011#7
  | .fsqrtaD rd rs1 => encR 0b1111001#7 0b00010#5 rs1 0b001#3 rd 0b1010011#7
  | .psqrtaH rd rs1 => encR 0b1111010#7 0b00010#5 rs1 0b001#3 rd 0b1010011#7
  | .pmaddS rd rs1 rs2 rs3 rm => encR4 rs3 0b00#2 rs2 rs1 rm rd 0b1000011#7
  | .pmaddH rd rs1 rs2 rs3 rm => encR4 rs3 0b10#2 rs2 rs1 rm rd 0b1000011#7
  | .pmsubS rd rs1 rs2 rs3 rm => encR4 rs3 0b00#2 rs2 rs1 rm rd 0b1000111#7
  | .pmsubH rd rs1 rs2 rs3 rm => encR4 rs3 0b10#2 rs2 rs1 rm rd 0b1000111#7
  | .pnmsubS rd rs1 rs2 rs3 rm => encR4 rs3 0b00#2 rs2 rs1 rm rd 0b1001011#7
  | .pnmsubH rd rs1 rs2 rs3 rm => encR4 rs3 0b10#2 rs2 rs1 rm rd 0b1001011#7
  | .pnmaddS rd rs1 rs2 rs3 rm => encR4 rs3 0b00#2 rs2 rs1 rm rd 0b1001111#7
  | .pnmaddH rd rs1 rs2 rs3 rm => encR4 rs3 0b10#2 rs2 rs1 rm rd 0b1001111#7
  | .pack rd rs1 rs2 => encR 0b0000100#7 rs2 rs1 0b100#3 rd 0b0110011#7
  | .packu rd rs1 rs2 => encR 0b0100100#7 rs2 rs1 0b100#3 rd 0b0110011#7
  | .pshufW rd rs1 imm => encI8 0b0100#4 imm rs1 0b001#3 rd 0b0011011#7
  | .pfshufW rd rs1 imm => encI8 0b0110#4 imm rs1 0b001#3 rd 0b0011011#7
  | .pkbb16 rd rs1 rs2 => encR 0b0000111#7 rs2 rs1 0b001#3 rd 0b1110111#7
  | .pkbt16 rd rs1 rs2 => encR 0b0001111#7 rs2 rs1 0b001#3 rd 0b1110111#7
  | .pktb16 rd rs1 rs2 => encR 0b0010111#7 rs2 rs1 0b001#3 rd 0b1110111#7
  | .pktt16 rd rs1 rs2 => encR 0b0011111#7 rs2 rs1 0b001#3 rd 0b1110111#7
  | .pkbb32 rd rs1 rs2 => encR 0b0000111#7 rs2 rs1 0b010#3 rd 0b1110111#7
  | .pkbt32 rd rs1 rs2 => encR 0b0001111#7 rs2 rs1 0b010#3 rd 0b1110111#7
  | .pktb32 rd rs1 rs2 => encR 0b0010111#7 rs2 rs1 0b010#3 rd 0b1110111#7
  | .pktt32 rd rs1 rs2 => encR 0b0011111#7 rs2 rs1 0b010#3 rd 0b1110111#7
  | .fleS rd rs1 rs2 => encR 0b1010000#7 rs2 rs1 0b000#3 rd 0b1010011#7
  | .fltS rd rs1 rs2 => encR 0b1010000#7 rs2 rs1 0b001#3 rd 0b1010011#7
  | .feqS rd rs1 rs2 => encR 0b1010000#7 rs2 rs1 0b010#3 rd 0b1010011#7
  | .fleD rd rs1 rs2 => encR 0b1010001#7 rs2 rs1 0b000#3 rd 0b1010011#7
  | .fltD rd rs1 rs2 => encR 0b1010001#7 rs2 rs1 0b001#3 rd 0b1010011#7
  | .feqD rd rs1 rs2 => encR 0b1010001#7 rs2 rs1 0b010#3 rd 0b1010011#7
  | .fleH rd rs1 rs2 => encR 0b1010010#7 rs2 rs1 0b000#3 rd 0b1010011#7
  | .fltH rd rs1 rs2 => encR 0b1010010#7 rs2 rs1 0b001#3 rd 0b1010011#7
  | .feqH rd rs1 rs2 => encR 0b1010010#7 rs2 rs1 0b010#3 rd 0b1010011#7
  | .fmvXD rd rs1 => encR 0b1110001#7 0b00000#5 rs1 0b000#3 rd 0b1010011#7
  | .fmvDX rd rs1 => encR 0b1111001#7 0b00000#5 rs1 0b000#3 rd 0b1010011#7
  | .sub rd rs1 rs2 => encR 0b0100000#7 rs2 rs1 0b000#3 rd 0b0110011#7
  | .jalr rd rs1 imm => encI imm rs1 0b000#3 rd 0b1100111#7
  | .addi rd rs1 imm => encI imm rs1 0b000#3 rd 0b0010011#7

/-- The instruction word of an instruction (R60 to R68). -/
def encode (i : Instr) : InsnWord := (encodeFields i).word

end Sys2Proof
end

