-- ==== Sys2Proof/Config.lean ====
section
/-! DEFINITION. What an implementation fixes: the floating-point formats and rounding modes the parameters
speak of, the parameter record of 00_scope.md rule R5 (`Params`, plain data), the shapes of the open function
parameters (`Numerics`, `MiscFns`, `ShufW`), and the free values, which are opaque constants. -/

namespace Sys2Proof

/-- The floating-point formats of R12: Binary16, Binary32, Binary64, BF16. -/
inductive Fmt where
  | H | S | D | B
  deriving DecidableEq, Repr

/-- `w(fmt)` of R12. -/
abbrev Fmt.width : Fmt → Nat
  | .H => 16
  | .S => 32
  | .D => 64
  | .B => 16

/-- The five IEEE rounding modes `rmode` of R12 and R14. -/
inductive RMode where
  | rne | rtz | rdn | rup | rmm
  deriving DecidableEq, Repr

/-- A lane result with the flags it raises: `(r, fl)` of R12. -/
abbrev FpResult (fmt : Fmt) := BitVec fmt.width × FpFlags

/-- The configuration record of total functions of R12, one field per primitive (`isNaN` is fixed by the layout
of R13 and is no parameter). Every function depends on its arguments alone. -/
structure Numerics where
  add : (fmt : Fmt) → RMode → BitVec fmt.width → BitVec fmt.width → FpResult fmt
  sub : (fmt : Fmt) → RMode → BitVec fmt.width → BitVec fmt.width → FpResult fmt
  mul : (fmt : Fmt) → RMode → BitVec fmt.width → BitVec fmt.width → FpResult fmt
  div : (fmt : Fmt) → RMode → BitVec fmt.width → BitVec fmt.width → FpResult fmt
  sqrt : (fmt : Fmt) → RMode → BitVec fmt.width → FpResult fmt
  /-- `fma fmt rmode a b c negp negc` is `(negp ? -(a*b) : a*b) + (negc ? -c : c)` with one rounding. -/
  fma : (fmt : Fmt) → RMode → BitVec fmt.width → BitVec fmt.width → BitVec fmt.width → Bool → Bool → FpResult fmt
  min : (fmt : Fmt) → BitVec fmt.width → BitVec fmt.width → FpResult fmt
  max : (fmt : Fmt) → BitVec fmt.width → BitVec fmt.width → FpResult fmt
  le : (fmt : Fmt) → BitVec fmt.width → BitVec fmt.width → Bool × FpFlags
  lt : (fmt : Fmt) → BitVec fmt.width → BitVec fmt.width → Bool × FpFlags
  eq : (fmt : Fmt) → BitVec fmt.width → BitVec fmt.width → Bool × FpFlags
  /-- `cvt dst src rmode a` converts `a` from format `src` to format `dst`. -/
  cvt : (dst src : Fmt) → RMode → BitVec src.width → FpResult dst
  rcpa : (fmt : Fmt) → BitVec fmt.width → FpResult fmt
  sqrta : (fmt : Fmt) → BitVec fmt.width → FpResult fmt
  deriving Inhabited

/-- The ten two-operand functions of the Misc instructions (R5, R270). -/
structure MiscFns where
  pack : Word → Word → Word
  packu : Word → Word → Word
  pkbb16 : Word → Word → Word
  pkbt16 : Word → Word → Word
  pktb16 : Word → Word → Word
  pktt16 : Word → Word → Word
  pkbb32 : Word → Word → Word
  pkbt32 : Word → Word → Word
  pktb32 : Word → Word → Word
  pktt32 : Word → Word → Word
  deriving Inhabited

/-- An unknown `Numerics`: what an implementation computes where it is not the recommended instantiation of R12 and no
rule fixes the result (D7; `conforming` in Machine/Ieee.lean holds it to what the rules fix), and in every machine its
`rcpa` and `sqrta`, for which R238 has no recommendation. A free value: nothing constrains it (log 6, log 7). -/
opaque Config.numerics : Numerics

/-- Unknown Misc functions (R270: "unknown functions of the operands"). A free value (log 8). -/
opaque Config.miscFns : MiscFns

/-- An unknown shuffle `ShufW` (R270). A free value (log 8). -/
opaque Config.shufW : Word → BitVec 8 → Word

/-- The byte at an address that neither the loader nor a store has written: "unspecified" (R330). A free value
per address (log 5). -/
opaque Config.unloadedByte : Nat → Byte

/-- Whether an FSX at a `pc` and an effective address, one half of which the platform does not back, has stored the other
half before it raises: "the first may already have been performed" (R48, R308). A free value (log 13). -/
opaque Config.fsxHalfStored : (pc ea : Word) → Bool

/-- RESET_PC, a multiple of 4 (R330). DESIGN CHOICE (log 4): the address at which the spec's own programs P1 to
P5 start. -/
def Config.resetPc : Word := 0x1000#64

/-- `PDIV_IMPL` and `PSQRT_IMPL` of R5: a packed unit, or a scalar unit that traps and emulates. -/
inductive UnitImpl where
  | simd | scalarOrEmulate
  deriving DecidableEq, Repr

/-- Which value an open function parameter has: the one the spec recommends, or the implementation's own. -/
inductive Choice where
  | recommended | implementation
  deriving DecidableEq, Repr

/-- A range of byte addresses, `base` to `base + size - 1`. -/
structure AddrRange where
  base : Nat
  size : Nat
  deriving DecidableEq, Repr

/-- The parameters of R5 that are plain data, "fixed for the whole run" (R330). -/
structure Params where
  /-- `HAS_X128` -/
  hasX128 : Bool
  /-- `HAS_X128_H` (implies `HAS_X128`) -/
  hasX128H : Bool
  /-- `HAS_FLX` -/
  hasFlx : Bool
  /-- `HAS_FSX` -/
  hasFsx : Bool
  /-- `PDIV_IMPL` -/
  pdivImpl : UnitImpl
  /-- `HAS_PDIVX` (implies `HAS_X128`) -/
  hasPdivx : Bool
  /-- `PSQRT_IMPL` -/
  psqrtImpl : UnitImpl
  /-- `HAS_PMADD` -/
  hasPmadd : Bool
  /-- `HAS_FPK` -/
  hasFpk : Bool
  /-- `HAS_HELPER` -/
  hasHelper : Bool
  /-- `HAS_MISC` -/
  hasMisc : Bool
  /-- `EMULATION_VISIBLE` -/
  emulationVisible : Bool
  /-- `MISALIGNED_OK` -/
  misalignedOk : Bool
  /-- which `Numerics` record (R12) -/
  numerics : Choice
  /-- which `ShufW` (R273) -/
  shufW : Choice
  /-- which `MiscFns` (R270) -/
  miscFns : Choice
  /-- `CVT_NARROW_HIGH` (R201) -/
  cvtNarrowHigh : BitVec 32
  /-- where `Mem.valid` holds (R46) -/
  valid : List AddrRange
  /-- `HALT_PC`, where the harness names one (R335) -/
  haltPc : Option Word
  /-- the program text of the run (R54) -/
  text : List AddrRange
  deriving DecidableEq, Repr

/-- The parameters of the reset state. DESIGN CHOICE (log 1): every feature present, packed divide and square
root units, and every value the spec recommends; `EMULATION_VISIBLE` false is R5's default. -/
def Params.default : Params :=
  { hasX128 := true, hasX128H := true, hasFlx := true, hasFsx := true, pdivImpl := .simd, hasPdivx := true,
    psqrtImpl := .simd, hasPmadd := true, hasFpk := true, hasHelper := true, hasMisc := true,
    emulationVisible := false, misalignedOk := true, numerics := .recommended, shufW := .recommended,
    miscFns := .recommended, cvtNarrowHigh := 0xFFFFFFFF#32, valid := [⟨0, 2 ^ 64⟩], haltPc := none, text := [] }

end Sys2Proof
end

