-- ==== Sys2Proof/Machine/State.lean ====
section
/-! DEFINITION. The state of the machine, as plain data: every piece of state of 10_state.md section 1, the
terminal trap state of 60_exceptions.md rule R300, the implementation parameters of R5 (fixed for the run, R330),
and the reasons a step can stop. -/

namespace Sys2Proof.Machine

/-- The exceptions of R301, each with the info value it records. -/
inductive Cause where
  | instructionAddressMisaligned (addr : Word)
  | instructionAccessFault (addr : Word)
  | illegalInstruction (bits : InsnWord)
  | loadAddressMisaligned (addr : Word)
  | loadAccessFault (addr : Word)
  | storeAddressMisaligned (addr : Word)
  | storeAccessFault (addr : Word)
  | emulationTrap (bits : InsnWord)
  deriving DecidableEq, Repr

/-- The terminal state `Trapped(E, info, pc)` of R300: the exception with its info value, and the address of the
instruction that raised it (R311). -/
structure Trap where
  cause : Cause
  pc : Word
  deriving DecidableEq, Repr

/-- Why a step stops without a next state, other than a refusal. -/
inductive Fault where
  /-- The machine is in the terminal state `Trapped(E, info, pc)`: the run has ended (R300, R335 b). Raised by
  `step`; safe. -/
  | trapped (t : Trap)
  /-- `pc` is the harness's HALT_PC: the run has ended and this state is its end state (R335 a). Raised by `step`;
  safe. -/
  | halted
  deriving DecidableEq, Repr

/-- Why the model makes no claim about a step. -/
inductive Refusal where
  /-- An instruction without a meaning. Raised by an arm of `exec`; safe. -/
  | notModelled (mnemonic : String)
  /-- The word fetched is in no opcode space of the spec: it may be a legal instruction the spec does not cover
  (R70, R303). Raised by `step`; safe. -/
  | notOfThisSpec (bits : InsnWord)
  /-- A store that overlaps the declared program text, which "the model must refuse" (R54). Raised by the four
  stores; safe. -/
  | storeToText (addr : Word)
  /-- A fetch of a byte that a store of this run wrote: whether the fetch sees the store is outside the spec (R54).
  Raised by `step`; safe. -/
  | fetchOfStoredByte (addr : Word)
  deriving DecidableEq, Repr

/-- Memory as (address, byte) pairs: the bytes that the loader or a store has written, addresses strictly rising
(`Memory.wf`). An address that is not listed holds a byte the spec leaves unspecified (R330, log 5). -/
abbrev Memory := List Host.Cell

/-- The state of the hart. -/
structure State where
  /-- f[0..31] (R20) -/
  f : Vector Word 32
  /-- x[0..31]; x[0] is hard-wired to zero by the accessors (R23) -/
  x : Vector Word 32
  /-- the address of the instruction being executed (R24) -/
  pc : Word
  /-- `fcsr.frm`, bits 7:5 (R25, R26) -/
  frm : BitVec 3
  /-- `fcsr.fflags`, bits 4:0 (R25, R27) -/
  fflags : FpFlags
  /-- byte-addressed memory (R29, R40) -/
  mem : Memory
  /-- the terminal state `Trapped`, once an exception has been raised (R300) -/
  trap : Option Trap
  /-- the MODEL's own field: the byte addresses that stores of this run have written (R54, log 12) -/
  stored : List Nat
  /-- the implementation parameters, fixed for the whole run (R5, R330, log 1) -/
  params : Params
  deriving DecidableEq, Repr

/-- The start state with given parameters and reset address, nothing loaded. R330 leaves x[1..31], f[0..31], `frm`
and `fflags` unspecified; zero is a DESIGN CHOICE (log 2, log 3). -/
def State.resetWith (params : Params) (resetPc : Word) : State :=
  { f := Vector.replicate 32 0#64, x := Vector.replicate 32 0#64, pc := resetPc, frm := 0b000#3, fflags := 0#5,
    mem := [], trap := none, stored := [], params := params }

/-- The machine right after reset (R330). -/
def State.reset : State := State.resetWith Params.default Config.resetPc

end Sys2Proof.Machine
end

