-- ==== Sys2Proof/Machine/Ops.lean ====
section
/-! DEFINITION. The named operations over registers and memory, and taking an exception. -/

namespace Sys2Proof.Machine

/-- What a step or an instruction answers. -/
abbrev Result := Host.Outcome State Fault Refusal

/-! ### Lanes -/

/-- `lane(v, w, k) = v[w*k+w-1 : w*k]` (R9). -/
def lane (w k : Nat) (v : Word) : BitVec w := v.extractLsb' (w * k) w

/-- The 64-bit value whose `n` lowest lanes of width `w` are `g 0` to `g (n - 1)`, zero above them: `{g (n-1), …,
g 0}` (R6, R9). -/
def joinLanes (w : Nat) : (n : Nat) → (Nat → BitVec w) → Word
  | 0, _ => 0#64
  | n + 1, g => joinLanes w n g ||| ((g n).setWidth 64 <<< (w * n))

/-- `nanbox(w, e) = {ones(64-w), e}` (R30). -/
def nanbox {w : Nat} (e : BitVec w) : Word := (BitVec.allOnes 64 <<< w) ||| e.setWidth 64

/-! ### Registers -/

/-- `f[i]` (R8, R20). -/
def State.getF (s : State) (r : FReg) : Word := s.f[r.toNat]'r.isLt

/-- `f[i] <- v` (R8). -/
def State.setF (s : State) (r : FReg) (v : Word) : State := { s with f := s.f.set r.toNat v r.isLt }

/-- `x[i]`; `x[0]` reads as zero (R8, R23). -/
def State.getX (s : State) (r : XReg) : Word := if r = 0#5 then 0#64 else s.x[r.toNat]'r.isLt

/-- `x[i] <- v`; a write to `x[0]` is discarded (R8, R23). -/
def State.setX (s : State) (r : XReg) (v : Word) : State :=
  if r = 0#5 then s else { s with x := s.x.set r.toNat v r.isLt }

/-- The register after `r`: the high half of the pair XF[r] (R8, R22). -/
def highReg (r : FReg) : FReg := r + 1#5

/-- `XF[i] <- {hi, lo}` (R8). -/
def State.setPair (s : State) (r : FReg) (lo hi : Word) : State := (s.setF r lo).setF (highReg r) hi

/-- `fcsr` as a 64-bit value: `fflags` in 4:0, `frm` in 7:5, 63:8 read as zero (R25). -/
def State.fcsr (s : State) : Word := (s.frm ++ s.fflags).setWidth 64

/-- The harness's write of `fcsr` (R321, R331): bits 63:8 are ignored (R25). -/
def State.withFcsr (s : State) (v : Word) : State :=
  { s with frm := v.extractLsb' 5 3, fflags := v.extractLsb' 0 5 }

/-- An instruction that is no jump ends with `pc <- pc + 4` modulo 2^64 (R24). -/
def State.advance (s : State) : State := { s with pc := s.pc + 4#64 }

/-! ### Memory -/

/-- The byte listed at an address, if one is. -/
def Memory.read : Memory → Nat → Option Byte
  | [], _ => none
  | (a, b) :: m, i => if i = a then some b else Memory.read m i

/-- Writes one byte, keeping the addresses strictly rising. -/
def Memory.write : Memory → Nat → Byte → Memory
  | [], i, v => [(i, v)]
  | (a, b) :: m, i, v =>
    if i < a then (i, v) :: (a, b) :: m else if i = a then (i, v) :: m else (a, b) :: Memory.write m i v

/-- Every listed address is at least `lo`, they rise strictly, and all are 64-bit addresses. -/
def Memory.wfFrom : Nat → Memory → Bool
  | _, [] => true
  | lo, (a, _) :: m => decide (lo ≤ a) && decide (a < 2 ^ 64) && Memory.wfFrom (a + 1) m

/-- The canonical form of a memory: addresses strictly rising. An unlisted address has no byte of its own to be
equal to, so no entry is redundant (log 5). -/
def Memory.wf (m : Memory) : Bool := Memory.wfFrom 0 m

/-- The byte at a 64-bit address (R40): what the loader or the most recent store put there (R49, R51), else the
unspecified initial byte (R330). -/
def State.readByte (s : State) (a : Word) : Byte := (s.mem.read a.toNat).getD (Config.unloadedByte a.toNat)

/-- The address of byte `k` of an access at `ea`, modulo 2^64 (R40). -/
def byteAddr (ea : Word) (k : Nat) : Word := ea + BitVec.ofNat 64 k

/-- `MemRead(ea, n)` for n ≤ 8 on valid addresses: little-endian, zero-extended to 64 bits (R10, R41). -/
def State.memRead (s : State) (ea : Word) (n : Nat) : Word := joinLanes 8 n fun k => s.readByte (byteAddr ea k)

/-- Stores one byte and notes its address (R54). -/
def State.writeByte (s : State) (a : Word) (b : Byte) : State :=
  { s with mem := s.mem.write a.toNat b, stored := a.toNat :: s.stored }

/-- `MemWrite(ea, n, v)` for n ≤ 8 on valid addresses: little-endian (R10, R41). -/
def State.memWrite (s : State) (ea : Word) (v : Word) : (n : Nat) → State
  | 0 => s
  | n + 1 => (s.memWrite ea v n).writeByte (byteAddr ea n) (lane 8 n v)

/-- The range holds an address. -/
def AddrRange.contains (r : AddrRange) (a : Nat) : Bool := decide (r.base ≤ a) && decide (a < r.base + r.size)

/-- `Mem.valid(addr)` of the platform (R46). -/
def memValid (p : Params) (a : Word) : Bool := p.valid.any fun r => AddrRange.contains r a.toNat

/-- The address is in the declared program text (R54). -/
def inText (p : Params) (a : Word) : Bool := p.text.any fun r => AddrRange.contains r a.toNat

/-- Every one of the `n` bytes at `ea` satisfies `P`. -/
def allBytes (P : Word → Bool) (ea : Word) : (n : Nat) → Bool
  | 0 => true
  | n + 1 => allBytes P ea n && P (byteAddr ea n)

/-- All `n` bytes of an access are valid (R46). -/
def State.accessValid (s : State) (ea : Word) (n : Nat) : Bool := allBytes (memValid s.params) ea n

/-- None of the `n` bytes of an access is program text (R54). -/
def State.avoidsText (s : State) (ea : Word) (n : Nat) : Bool := allBytes (fun a => !inText s.params a) ea n

/-! ### Taking an exception -/

/-- `raise E(info)`: no register, flag or memory byte changes, `pc` stays, and the machine enters the terminal state
`Trapped(E, info, pc)` (R11, R300, R311). There is no return from it (R312). -/
def State.raise (s : State) (e : Cause) : State := { s with trap := some { cause := e, pc := s.pc } }

/-- An instruction that raises `e`. -/
def raiseOut (e : Cause) (s : State) : Result := .next (s.raise e)

/-- `raise IllegalInstruction(insn)`, with the 32 bits of the instruction (R302). -/
def illegal (i : Instr) (s : State) : Result := raiseOut (.illegalInstruction (encode i)) s

/-- `raise EmulationTrap(insn)` (R306). -/
def emulate (i : Instr) (s : State) : Result := raiseOut (.emulationTrap (encode i)) s

/-- The `mcause` value of an exception on a RISC-V processor, for reference: no rule reads it (R301). -/
def Cause.code : Cause → Option Nat
  | .instructionAddressMisaligned _ => some 0
  | .instructionAccessFault _ => some 1
  | .illegalInstruction _ => some 2
  | .loadAddressMisaligned _ => some 4
  | .loadAccessFault _ => some 5
  | .storeAddressMisaligned _ => some 6
  | .storeAccessFault _ => some 7
  | .emulationTrap _ => none

/-! ### Ends of instructions -/

/-- `x[rd] <- v`, then the next instruction. -/
def State.finishX (s : State) (rd : XReg) (v : Word) : Result := .next (s.setX rd v).advance

/-- `f[rd] <- v`, then the next instruction. -/
def State.finishF (s : State) (rd : FReg) (v : Word) : Result := .next (s.setF rd v).advance

end Sys2Proof.Machine
end

