-- ==== Sys2Proof/Machine/Flags.lean ====
section
/-! DEFINITION. The accrued exception flags of `fcsr` (10_state.md rules R25 and R27) and the ends of the
instructions that accrue them. -/

namespace Sys2Proof.Machine

/-- Invalid operation, bit 4 (R12). -/
def flagNV : FpFlags := 0b10000#5

/-- Division by zero, bit 3. -/
def flagDZ : FpFlags := 0b01000#5

/-- Overflow, bit 2. -/
def flagOF : FpFlags := 0b00100#5

/-- Underflow, bit 1. -/
def flagUF : FpFlags := 0b00010#5

/-- Inexact, bit 0. -/
def flagNX : FpFlags := 0b00001#5

/-- The flag `b` as a set, empty when the condition does not hold. -/
def flagIf (c : Bool) (b : FpFlags) : FpFlags := if c then b else 0#5

/-- `fl_0 | fl_1 | … | fl_(n-1)` over the lanes of an instruction (R27). -/
def orFlags : (n : Nat) → (Nat → FpFlags) → FpFlags
  | 0, _ => 0#5
  | n + 1, g => orFlags n g ||| g n

/-- `fflags <- fflags | fl`: flags are sticky, never cleared, and never trap (R27, R309). -/
def State.accrue (s : State) (fl : FpFlags) : State := { s with fflags := s.fflags ||| fl }

/-- `f[rd] <- v; fflags <- fflags | fl`, then the next instruction. -/
def State.finishFp (s : State) (rd : FReg) (v : Word) (fl : FpFlags) : Result :=
  .next ((s.setF rd v).accrue fl).advance

/-- `f[rd] <- lo; f[rd+1] <- hi; fflags <- fflags | fl`, then the next instruction. -/
def State.finishPair (s : State) (rd : FReg) (lo hi : Word) (fl : FpFlags) : Result :=
  .next ((s.setPair rd lo hi).accrue fl).advance

/-- `x[rd] <- v; fflags <- fflags | fl`, then the next instruction: the compares (R170). -/
def State.finishCmp (s : State) (rd : XReg) (v : Word) (fl : FpFlags) : Result :=
  .next ((s.setX rd v).accrue fl).advance

end Sys2Proof.Machine
end

