-- ==== Sys2Proof/Machine/Ieee.lean ====
section
/-! DEFINITION. The recommended instantiation of `Numerics` (00_scope.md rules R12 and R13, decision D7): IEEE
754-2008 arithmetic as the RISC-V F, D, Zfh and Zfbfmin extensions define it. Operands are unpacked to exact
numbers, the operation is exact, and one rounding narrows the result. The rules the spec recommends are its general
knowledge; what it does not spell out is PRESUMED from the same standards (log 19). -/

namespace Sys2Proof.Machine

/-! ### Formats (R13) -/

/-- Width of the fraction field. -/
def fracBits : Fmt → Nat
  | .H => 10
  | .S => 23
  | .D => 52
  | .B => 7

/-- Width of the exponent field. -/
def expBits : Fmt → Nat
  | .H => 5
  | .S => 8
  | .D => 11
  | .B => 8

/-- Exponent bias. -/
def bias : Fmt → Nat
  | .H => 15
  | .S => 127
  | .D => 1023
  | .B => 127

/-- The exponent field, all ones. -/
def expMask : (fmt : Fmt) → BitVec fmt.width
  | .H => 0x7C00#16
  | .S => 0x7F800000#32
  | .D => 0x7FF0000000000000#64
  | .B => 0x7F80#16

/-- The fraction field, all ones. -/
def fracMask : (fmt : Fmt) → BitVec fmt.width
  | .H => 0x03FF#16
  | .S => 0x007FFFFF#32
  | .D => 0x000FFFFFFFFFFFFF#64
  | .B => 0x007F#16

/-- The top fraction bit: set in a quiet NaN. -/
def quietBit : (fmt : Fmt) → BitVec fmt.width
  | .H => 0x0200#16
  | .S => 0x00400000#32
  | .D => 0x0008000000000000#64
  | .B => 0x0040#16

/-- `isNaN(fmt, a)`: exponent field all ones and fraction field not zero (R12, R13). -/
def isNaN (fmt : Fmt) (a : BitVec fmt.width) : Bool :=
  a &&& expMask fmt == expMask fmt && a &&& fracMask fmt != 0#fmt.width

/-- A NaN whose top fraction bit is 0 (R13). -/
def isSignalling (fmt : Fmt) (a : BitVec fmt.width) : Bool :=
  isNaN fmt a && a &&& quietBit fmt == 0#fmt.width

/-- The canonical quiet NaN: 0x7E00, 0x7FC00000, 0x7FF8000000000000, 0x7FC0 (R12). -/
def canonicalNaN (fmt : Fmt) : BitVec fmt.width := expMask fmt ||| quietBit fmt

/-! ### Unpacked numbers -/

/-- What a bit pattern stands for. A finite number is `(-1)^neg * m * 2^e`, exactly. -/
inductive FpVal where
  | nan
  | inf (neg : Bool)
  | fin (neg : Bool) (m : Nat) (e : Int)
  deriving DecidableEq, Repr

/-- The value of a pattern (R13): subnormals are fully supported (D7). -/
def unpack (fmt : Fmt) (a : BitVec fmt.width) : FpVal :=
  let fr := a.toNat % 2 ^ fracBits fmt
  let ex := (a.toNat >>> fracBits fmt) % 2 ^ expBits fmt
  if ex = 2 ^ expBits fmt - 1 then (if fr = 0 then .inf a.msb else .nan)
  else if ex = 0 then .fin a.msb fr (1 - (bias fmt : Int) - fracBits fmt)
  else .fin a.msb (2 ^ fracBits fmt + fr) ((ex : Int) - bias fmt - fracBits fmt)

/-- A pattern from its sign and its magnitude bits. -/
def signed (fmt : Fmt) (neg : Bool) (mag : Nat) : BitVec fmt.width :=
  BitVec.ofNat fmt.width (mag + if neg then 2 ^ (fmt.width - 1) else 0)

/-- The magnitude bits of infinity: exponent all ones, fraction zero. -/
def infMag (fmt : Fmt) : Nat := (2 ^ expBits fmt - 1) * 2 ^ fracBits fmt

/-- An infinity. -/
def infinity (fmt : Fmt) (neg : Bool) : BitVec fmt.width := signed fmt neg (infMag fmt)

/-- A zero. -/
def zeroOf (fmt : Fmt) (neg : Bool) : BitVec fmt.width := signed fmt neg 0

/-- The sign-changed number. -/
def FpVal.negate : FpVal → FpVal
  | .nan => .nan
  | .inf n => .inf (!n)
  | .fin n m e => .fin (!n) m e

/-- The sign of a number is changed if `c`. -/
def FpVal.negateIf (c : Bool) (v : FpVal) : FpVal := if c then v.negate else v

/-! ### Rounding (R14) -/

/-- `m / 2^sh` rounded to an integer in the direction of `rm` for a number of sign `neg`, and whether that was
inexact. `sticky` says that the exact value lies strictly between `m` and `m + 1`. -/
def shiftRound (rm : RMode) (neg : Bool) (m : Nat) (sh : Int) (sticky : Bool) : Nat × Bool :=
  if sh ≤ 0 then (m <<< (-sh).toNat, sticky)
  else
    let k := sh.toNat
    let q := m >>> k
    let r := m % 2 ^ k
    let half := 2 ^ (k - 1)
    let inexact := r != 0 || sticky
    let up :=
      match rm with
      | .rne => decide (half < r) || (r == half && (sticky || q % 2 == 1))
      | .rtz => false
      | .rdn => neg && inexact
      | .rup => !neg && inexact
      | .rmm => decide (half ≤ r)
    (if up then q + 1 else q, inexact)

/-- Overflow delivers an infinity or the largest finite number, by rounding mode and sign (R123, D7). -/
def overflowsToInf (rm : RMode) (neg : Bool) : Bool :=
  match rm with
  | .rne => true
  | .rtz => false
  | .rdn => neg
  | .rup => !neg
  | .rmm => true

/-- The number `(-1)^neg * m * 2^e` (with `sticky`: a little more in magnitude) rounded to the format, with the
flags OF, UF, NX. Tininess is detected after rounding (R12). -/
def roundPack (fmt : Fmt) (rm : RMode) (neg : Bool) (m : Nat) (e : Int) (sticky : Bool) : FpResult fmt :=
  if m = 0 then (zeroOf fmt neg, 0#5)
  else
    let fb : Int := fracBits fmt
    let top : Int := m.log2 + e
    let emin : Int := 1 - bias fmt
    let quantum := max top emin - fb
    let (sig, inexact) := shiftRound rm neg m (quantum - e) sticky
    let mag := (quantum + fb + bias fmt - 1).toNat * 2 ^ fracBits fmt + sig
    if infMag fmt ≤ mag then
      (signed fmt neg (if overflowsToInf rm neg then infMag fmt else infMag fmt - 1), flagOF ||| flagNX)
    else
      let sigUnbounded := (shiftRound rm neg m (top - fb - e) sticky).1
      let tiny := decide (top < emin) && !(decide (top = emin - 1) && sigUnbounded == 2 ^ (fracBits fmt + 1))
      (signed fmt neg mag, flagIf inexact flagNX ||| flagIf (inexact && tiny) flagUF)

/-- A sum that is exactly zero is +0, or -0 in RDN (R123). -/
def zeroSumSign (rm : RMode) : Bool := decide (rm = .rdn)

/-- `(-1)^neg * m` as an integer. -/
def signedInt (neg : Bool) (m : Nat) : Int := if neg then -(m : Int) else m

/-- The exact sum of two finite numbers, rounded once. Equal signs of two zeros are kept (R123). -/
def addFinite (fmt : Fmt) (rm : RMode) (n1 : Bool) (m1 : Nat) (e1 : Int) (n2 : Bool) (m2 : Nat) (e2 : Int) :
    FpResult fmt :=
  let e := min e1 e2
  let v := signedInt n1 (m1 <<< (e1 - e).toNat) + signedInt n2 (m2 <<< (e2 - e).toNat)
  if v = 0 then (zeroOf fmt (if n1 = n2 then n1 else zeroSumSign rm), 0#5)
  else roundPack fmt rm (decide (v < 0)) v.natAbs e false

/-- The result of an invalid operation: the canonical NaN with NV. -/
def invalid (fmt : Fmt) : FpResult fmt := (canonicalNaN fmt, flagNV)

/-- The result of an operation with a NaN operand: the canonical NaN, with NV if an operand is signalling. -/
def nanResult (fmt : Fmt) (signalling : Bool) : FpResult fmt := (canonicalNaN fmt, flagIf signalling flagNV)

/-- The sum of two unpacked numbers, NaNs apart. -/
def addVal (fmt : Fmt) (rm : RMode) : FpVal → FpVal → FpResult fmt
  | .inf a, .inf b => if a = b then (infinity fmt a, 0#5) else invalid fmt
  | .inf a, .fin _ _ _ => (infinity fmt a, 0#5)
  | .fin _ _ _, .inf b => (infinity fmt b, 0#5)
  | .fin n1 m1 e1, .fin n2 m2 e2 => addFinite fmt rm n1 m1 e1 n2 m2 e2
  | .nan, _ => nanResult fmt false
  | _, .nan => nanResult fmt false

/-- The operation `k` on the unpacked operands, unless one of them is a NaN. -/
def withoutNaN2 (fmt : Fmt) (a b : BitVec fmt.width) (k : FpVal → FpVal → FpResult fmt) : FpResult fmt :=
  if isNaN fmt a || isNaN fmt b then nanResult fmt (isSignalling fmt a || isSignalling fmt b)
  else k (unpack fmt a) (unpack fmt b)

/-! ### The operations of R12 -/

/-- `fp_add` -/
def ieeeAdd (fmt : Fmt) (rm : RMode) (a b : BitVec fmt.width) : FpResult fmt :=
  withoutNaN2 fmt a b (addVal fmt rm)

/-- `fp_sub` -/
def ieeeSub (fmt : Fmt) (rm : RMode) (a b : BitVec fmt.width) : FpResult fmt :=
  withoutNaN2 fmt a b fun x y => addVal fmt rm x y.negate

/-- The product of two unpacked numbers: its sign is the XOR of the signs; 0 * inf is invalid (R125). -/
def mulVal (fmt : Fmt) (rm : RMode) : FpVal → FpVal → FpResult fmt
  | .inf a, .inf b => (infinity fmt (a != b), 0#5)
  | .inf a, .fin b m _ => if m = 0 then invalid fmt else (infinity fmt (a != b), 0#5)
  | .fin a m _, .inf b => if m = 0 then invalid fmt else (infinity fmt (a != b), 0#5)
  | .fin a m1 e1, .fin b m2 e2 => roundPack fmt rm (a != b) (m1 * m2) (e1 + e2) false
  | .nan, _ => nanResult fmt false
  | _, .nan => nanResult fmt false

/-- `fp_mul` -/
def ieeeMul (fmt : Fmt) (rm : RMode) (a b : BitVec fmt.width) : FpResult fmt :=
  withoutNaN2 fmt a b (mulVal fmt rm)

/-- The quotient of two unpacked numbers: x/0 gives an infinity and DZ, 0/0 and inf/inf are invalid (R129). The
integer quotient keeps enough bits for one correct rounding. -/
def divVal (fmt : Fmt) (rm : RMode) : FpVal → FpVal → FpResult fmt
  | .inf _, .inf _ => invalid fmt
  | .inf a, .fin b _ _ => (infinity fmt (a != b), 0#5)
  | .fin a _ _, .inf b => (zeroOf fmt (a != b), 0#5)
  | .fin a m1 e1, .fin b m2 e2 =>
    if m2 = 0 then (if m1 = 0 then invalid fmt else (infinity fmt (a != b), flagDZ))
    else
      let k := 2 * fracBits fmt + 6
      let n := m1 <<< k
      roundPack fmt rm (a != b) (n / m2) (e1 - e2 - k) (n % m2 != 0)
  | .nan, _ => nanResult fmt false
  | _, .nan => nanResult fmt false

/-- `fp_div` -/
def ieeeDiv (fmt : Fmt) (rm : RMode) (a b : BitVec fmt.width) : FpResult fmt :=
  withoutNaN2 fmt a b (divVal fmt rm)

/-- The integer square root of `m`, found bit by bit: the largest `r + d` with `d < 2^n` and `(r + d)^2 ≤ m`. -/
def isqrtFrom (m : Nat) : (n : Nat) → (r : Nat) → Nat
  | 0, r => r
  | n + 1, r => isqrtFrom m n (if (r + 2 ^ n) * (r + 2 ^ n) ≤ m then r + 2 ^ n else r)

/-- The integer square root. -/
def isqrt (m : Nat) : Nat := isqrtFrom m (m.log2 / 2 + 1) 0

/-- The square root of an unpacked number: of -0 it is -0, of +inf +inf, of another negative number invalid
(R230). -/
def sqrtVal (fmt : Fmt) (rm : RMode) : FpVal → FpResult fmt
  | .nan => nanResult fmt false
  | .inf n => if n then invalid fmt else (infinity fmt false, 0#5)
  | .fin n m e =>
    if m = 0 then (zeroOf fmt n, 0#5)
    else if n then invalid fmt
    else
      let k : Nat := 2 * fracBits fmt + 6 + if e % 2 = 0 then 0 else 1
      let v := m <<< k
      let r := isqrt v
      roundPack fmt rm false r ((e - k) / 2) (r * r != v)

/-- `fp_sqrt` -/
def ieeeSqrt (fmt : Fmt) (rm : RMode) (a : BitVec fmt.width) : FpResult fmt :=
  if isNaN fmt a then nanResult fmt (isSignalling fmt a) else sqrtVal fmt rm (unpack fmt a)

/-- The exact product of two unpacked numbers; `nan` for 0 * inf. -/
def exactProduct : FpVal → FpVal → FpVal
  | .inf a, .inf b => .inf (a != b)
  | .inf a, .fin b m _ => if m = 0 then .nan else .inf (a != b)
  | .fin a m _, .inf b => if m = 0 then .nan else .inf (a != b)
  | .fin a m1 e1, .fin b m2 e2 => .fin (a != b) (m1 * m2) (e1 + e2)
  | .nan, _ => .nan
  | _, .nan => .nan

/-- inf * 0, in either order. -/
def infTimesZero : FpVal → FpVal → Bool
  | .inf _, .fin _ m _ => m == 0
  | .fin _ m _, .inf _ => m == 0
  | .inf _, .inf _ => false
  | .fin _ _ _, .fin _ _ _ => false
  | .nan, _ => false
  | _, .nan => false

/-- `fp_fma`: one rounding; inf * 0 sets NV even when the addend is a quiet NaN (R253). -/
def ieeeFma (fmt : Fmt) (rm : RMode) (a b c : BitVec fmt.width) (negp negc : Bool) : FpResult fmt :=
  let x := unpack fmt a
  let y := unpack fmt b
  if isNaN fmt a || isNaN fmt b || isNaN fmt c then
    nanResult fmt (isSignalling fmt a || isSignalling fmt b || isSignalling fmt c || infTimesZero x y)
  else if infTimesZero x y then invalid fmt
  else addVal fmt rm ((exactProduct x y).negateIf negp) ((unpack fmt c).negateIf negc)

/-- The order of the numbers as integers: the magnitude bits with their sign, so that -0 equals +0. -/
def orderKey (fmt : Fmt) (a : BitVec fmt.width) : Int :=
  signedInt a.msb (a.toNat % 2 ^ (fmt.width - 1))

/-- `fp_min`: the other operand when exactly one is a NaN; -0 is less than +0 (R12, R180). -/
def ieeeMin (fmt : Fmt) (a b : BitVec fmt.width) : FpResult fmt :=
  let fl := flagIf (isSignalling fmt a || isSignalling fmt b) flagNV
  if isNaN fmt a && isNaN fmt b then (canonicalNaN fmt, fl)
  else if isNaN fmt a then (b, fl)
  else if isNaN fmt b then (a, fl)
  else if orderKey fmt a < orderKey fmt b ∨ (orderKey fmt a = orderKey fmt b ∧ a.msb = true) then (a, fl)
  else (b, fl)

/-- `fp_max` (R12, R180). -/
def ieeeMax (fmt : Fmt) (a b : BitVec fmt.width) : FpResult fmt :=
  let fl := flagIf (isSignalling fmt a || isSignalling fmt b) flagNV
  if isNaN fmt a && isNaN fmt b then (canonicalNaN fmt, fl)
  else if isNaN fmt a then (b, fl)
  else if isNaN fmt b then (a, fl)
  else if orderKey fmt b < orderKey fmt a ∨ (orderKey fmt a = orderKey fmt b ∧ a.msb = false) then (a, fl)
  else (b, fl)

/-- `fp_le`: NV on any NaN (R12, R170). -/
def ieeeLe (fmt : Fmt) (a b : BitVec fmt.width) : Bool × FpFlags :=
  if isNaN fmt a || isNaN fmt b then (false, flagNV) else (decide (orderKey fmt a ≤ orderKey fmt b), 0#5)

/-- `fp_lt`: NV on any NaN (R12, R170). -/
def ieeeLt (fmt : Fmt) (a b : BitVec fmt.width) : Bool × FpFlags :=
  if isNaN fmt a || isNaN fmt b then (false, flagNV) else (decide (orderKey fmt a < orderKey fmt b), 0#5)

/-- `fp_eq`: NV only on a signalling NaN (R12, R170). -/
def ieeeEq (fmt : Fmt) (a b : BitVec fmt.width) : Bool × FpFlags :=
  if isNaN fmt a || isNaN fmt b then (false, flagIf (isSignalling fmt a || isSignalling fmt b) flagNV)
  else (decide (orderKey fmt a = orderKey fmt b), 0#5)

/-- An unpacked number in another format. -/
def cvtVal (dst : Fmt) (rm : RMode) : FpVal → FpResult dst
  | .nan => nanResult dst false
  | .inf n => (infinity dst n, 0#5)
  | .fin n m e => roundPack dst rm n m e false

/-- `fp_cvt`: a NaN gives the canonical NaN of the destination, NV if it was signalling (R202). -/
def ieeeCvt (dst src : Fmt) (rm : RMode) (a : BitVec src.width) : FpResult dst :=
  if isNaN src a then nanResult dst (isSignalling src a) else cvtVal dst rm (unpack src a)

/-- The recommended `Numerics` of R12. `fp_rcpa` and `fp_sqrta` have no recommendation: they stay free (R238). -/
def recommendedNumerics : Numerics :=
  { add := ieeeAdd, sub := ieeeSub, mul := ieeeMul, div := ieeeDiv, sqrt := ieeeSqrt, fma := ieeeFma,
    min := ieeeMin, max := ieeeMax, le := ieeeLe, lt := ieeeLt, eq := ieeeEq, cvt := ieeeCvt,
    rcpa := Config.numerics.rcpa, sqrta := Config.numerics.sqrta }

/-! ### Any other instantiation (R12, D7; log 6)

An implementation that does not compute the recommended record computes an unknown one, `Config.numerics`. What the
rules fix in every instantiation is forced on it: the operation is the named one (P1 of R12), a NaN operand gives a NaN
(P2), a comparison is R170's, a minimum or maximum is one of the operands or a NaN (R180). What they leave to the record
stays the unknown record's: which NaN, operands and results near the subnormal range, flag details, NaN and signed zero
operands of minimum and maximum, and the direction of an inexact result. -/

/-- A result made a NaN, if it is none and `c` holds: a NaN result stays as it is. -/
def forceNaN (fmt : Fmt) (c : Bool) (r : FpResult fmt) : FpResult fmt :=
  if c && !isNaN fmt r.1 then (r.1 ||| canonicalNaN fmt, r.2) else r

/-- A subnormal number: exponent field zero, fraction field not zero (R13). -/
def isSubnormal (fmt : Fmt) (a : BitVec fmt.width) : Bool :=
  a &&& expMask fmt == 0#fmt.width && a &&& fracMask fmt != 0#fmt.width

/-- Neither operand is a NaN (R12). -/
def bothNumbers (fmt : Fmt) (a b : BitVec fmt.width) : Bool := !isNaN fmt a && !isNaN fmt b

/-- The bits below the sign. -/
def magnitude (fmt : Fmt) (a : BitVec fmt.width) : Nat := a.toNat % 2 ^ (fmt.width - 1)

/-- A result at which the treatment of subnormals and of tininess can show: a subnormal number, or a rounded one that
is no more than the least normal number in magnitude. -/
def nearSubnormal (fmt : Fmt) (r : FpResult fmt) : Bool :=
  isSubnormal fmt r.1 || (r.2 &&& flagNX != 0#5 && decide (magnitude fmt r.1 ≤ 2 ^ fracBits fmt))

/-- A result that needs no rounding and has no digits: zero, an infinity, a NaN. -/
def isLimit (fmt : Fmt) (r : FpResult fmt) : Bool :=
  r.2 &&& flagNX == 0#5 && (magnitude fmt r.1 == 0 || decide (infMag fmt ≤ magnitude fmt r.1))

/-- `u` is the result `r` of a rounding that did not overflow. -/
def isRounding (fmt : Fmt) (u : BitVec fmt.width) (r : FpResult fmt) : Bool := u == r.1 && r.2 &&& flagOF == 0#5

/-- The unknown result `u` held to the named operation, whose result in each rounding mode is `r` (P1 of R12), in the
mode `rm`. A result near the subnormal range is left to the record, and one computed from a subnormal number, which
`subnormal` says, unless it is a limit; an overflow is R123's, in the mode; an invalid operation gives some NaN and NV; an
exact result is that result; an inexact one is a neighbour of the exact result, above or below it, as only the
recommendation rounds it correctly. Division by zero and invalid set their flag (R123 to R130, R309); the other flags are
the record's. -/
def heldToOperation (fmt : Fmt) (rm : RMode) (subnormal : Bool) (u : FpResult fmt) (r : RMode → FpResult fmt) :
    FpResult fmt :=
  let e := r rm
  if nearSubnormal fmt e || (subnormal && !isLimit fmt e) then u
  else if e.2 &&& flagOF != 0#5 then e
  else if isNaN fmt e.1 then forceNaN fmt true (u.1, u.2 ||| flagNV)
  else if e.2 &&& flagNX != 0#5 && (isRounding fmt u.1 (r .rdn) || isRounding fmt u.1 (r .rup)) then u
  else (e.1, u.2 ||| (e.2 &&& (flagNV ||| flagDZ)))

/-- The unknown result `u` of an arithmetic operation with recommended results `r`: some NaN if `nan` says that an
operand is one (P2 of R12), with the record's flags only if `flags` says that the rules leave them open, as quiet NaNs
raise none (R27); else that of the operation. -/
def conformingOp (fmt : Fmt) (rm : RMode) (nan flags subnormal : Bool) (u : FpResult fmt) (r : RMode → FpResult fmt) :
    FpResult fmt :=
  if nan then forceNaN fmt true (u.1, if flags then u.2 else 0#5)
  else heldToOperation fmt rm subnormal u r

/-- `conformingOp` of two operands of one format. -/
def conforming2 (fmt : Fmt) (rm : RMode) (a b : BitVec fmt.width) (u : FpResult fmt) (r : RMode → FpResult fmt) :
    FpResult fmt :=
  conformingOp fmt rm (isNaN fmt a || isNaN fmt b) (isSignalling fmt a || isSignalling fmt b)
    (isSubnormal fmt a || isSubnormal fmt b) u r

/-- A square root: as the other operations on numbers that have one; of -0 some zero; of another negative number what
the record has. R230 gives these two, -0 and an invalid operation, for the recommended record alone. -/
def conformingSqrt (fmt : Fmt) (rm : RMode) (a : BitVec fmt.width) (u : FpResult fmt) : FpResult fmt :=
  if !isNaN fmt a && a.msb then
    if a == zeroOf fmt true && u.1 != zeroOf fmt false then (zeroOf fmt true, u.2) else u
  else conformingOp fmt rm (isNaN fmt a) (isSignalling fmt a) (isSubnormal fmt a) u fun m => ieeeSqrt fmt m a

/-- A multiply-add. Whether inf * 0 sets NV beside a quiet NaN addend is the record's (R253). -/
def conformingFma (fmt : Fmt) (rm : RMode) (a b c : BitVec fmt.width) (negp negc : Bool) (u : FpResult fmt) :
    FpResult fmt :=
  conformingOp fmt rm (isNaN fmt a || isNaN fmt b || isNaN fmt c)
    (isSignalling fmt a || isSignalling fmt b || isSignalling fmt c || infTimesZero (unpack fmt a) (unpack fmt b))
    (isSubnormal fmt a || isSubnormal fmt b || isSubnormal fmt c) u fun m => ieeeFma fmt m a b c negp negc

/-- Every number of the format `src` is one of the format `dst` (R202). -/
def widens (dst src : Fmt) : Bool := decide (fracBits src ≤ fracBits dst) && decide (expBits src ≤ expBits dst)

/-- A conversion, `u` being the unknown result in each mode. A widening one is exact for every input and raises at most NV,
for a signalling NaN, and the mode does not affect it (R202, R204): which NaN a NaN gives is one choice of the record's for
all modes. Which of the largest number and infinity an overflowing one gives is the record's: R202 and D7 say it of the recommended
one. -/
def conformingCvt (dst src : Fmt) (rm : RMode) (a : BitVec src.width) (u : RMode → FpResult dst) :
    FpResult dst :=
  let r := fun m => ieeeCvt dst src m a
  if widens dst src then
    if isNaN src a then forceNaN dst true ((u .rne).1, (r .rne).2) else r .rne
  else if !isNaN src a && (r rm).2 &&& flagOF != 0#5 then
    if (u rm).1 == (r .rdn).1 || (u rm).1 == (r .rup).1 then u rm else ((r rm).1, (u rm).2)
  else conformingOp dst rm (isNaN src a) (isSignalling src a) (isSubnormal src a) (u rm) r

/-- A minimum or maximum with recommended result `r`: one of the operands or a NaN, NV for a signalling NaN (R180,
R181). Of two numbers in order it is R12's; of zeros of both signs, and beside one NaN, the record's choice; of two NaNs
a NaN (P2). -/
def conformingSelect (fmt : Fmt) (a b : BitVec fmt.width) (u r : FpResult fmt) : FpResult fmt :=
  let some1 := u.1 == a || u.1 == b
  if isNaN fmt a && isNaN fmt b then forceNaN fmt true (u.1, r.2)
  else if bothNumbers fmt a b then
    if orderKey fmt a = orderKey fmt b ∧ some1 = true then (u.1, r.2) else r
  else if some1 || isNaN fmt u.1 then (u.1, r.2) else r

/-- The record of an implementation that does not compute the recommended one: `N`, held to what the rules fix.
`rcpa` and `sqrta` are fixed by none (R238). -/
def conforming (N : Numerics) : Numerics :=
  { add := fun fmt rm a b => conforming2 fmt rm a b (N.add fmt rm a b) fun m => ieeeAdd fmt m a b
    sub := fun fmt rm a b => conforming2 fmt rm a b (N.sub fmt rm a b) fun m => ieeeSub fmt m a b
    mul := fun fmt rm a b => conforming2 fmt rm a b (N.mul fmt rm a b) fun m => ieeeMul fmt m a b
    div := fun fmt rm a b => conforming2 fmt rm a b (N.div fmt rm a b) fun m => ieeeDiv fmt m a b
    sqrt := fun fmt rm a => conformingSqrt fmt rm a (N.sqrt fmt rm a)
    fma := fun fmt rm a b c negp negc => conformingFma fmt rm a b c negp negc (N.fma fmt rm a b c negp negc)
    min := fun fmt a b => conformingSelect fmt a b (N.min fmt a b) (ieeeMin fmt a b)
    max := fun fmt a b => conformingSelect fmt a b (N.max fmt a b) (ieeeMax fmt a b)
    le := ieeeLe
    lt := ieeeLt
    eq := ieeeEq
    cvt := fun dst src rm a => conformingCvt dst src rm a fun m => N.cvt dst src m a
    rcpa := N.rcpa
    sqrta := N.sqrta }

/-- The `Numerics` of a machine with parameters `p`. -/
def numericsOf (p : Params) : Numerics :=
  match p.numerics with
  | .recommended => recommendedNumerics
  | .implementation => conforming Config.numerics

end Sys2Proof.Machine
end

