-- ==== Sys2Proof/Machine/Operands.lean ====
section
/-! DEFINITION. Operand forms: the rounding-mode field, effective addresses, register pairs, and the lane-by-lane
templates every packed instruction goes through. -/

namespace Sys2Proof.Machine

/-! ### Rounding mode (R14, R26) -/

/-- The five static codes, 000 to 100 (R14). -/
def staticRm (rm : BitVec 3) : Option RMode :=
  match rm with
  | 0b000#3 => some .rne
  | 0b001#3 => some .rtz
  | 0b010#3 => some .rdn
  | 0b011#3 => some .rup
  | 0b100#3 => some .rmm
  | _ => none

/-- The rounding of a 2x code: 101 is 2xRTZ, 110 is 2xRNE (R14). -/
def XRm.rounding : XRm → RMode
  | .rtz2 => .rtz
  | .rne2 => .rne

/-- What `decode_rm` answers (R14). -/
inductive RmMeaning where
  /-- a rounding mode with `wide = no` -/
  | narrow (m : RMode)
  /-- a 2x code: `wide = yes` -/
  | wide (x : XRm)
  /-- DYN while `frm` holds 101, 110 or 111 (R26) -/
  | illegal
  deriving DecidableEq, Repr

/-- `decode_rm(rm)` of R14, with DYN (111) reading `frm` (R26). -/
def decodeRm (rm frm : BitVec 3) : RmMeaning :=
  match XRm.ofBits rm with
  | some x => .wide x
  | none =>
    match staticRm (if rm = 0b111#3 then frm else rm) with
    | some m => .narrow m
    | none => .illegal

/-- `decode_rm` in a state. -/
def State.rmMeaning (s : State) (rm : BitVec 3) : RmMeaning := decodeRm rm s.frm

/-- Runs `k` with the rounding mode of an instruction that has no X form: a 2x code is reserved there (R78), and an
invalid dynamic mode is illegal (R26). -/
def withRounding (i : Instr) (rm : BitVec 3) (s : State) (k : RMode → Result) : Result :=
  match s.rmMeaning rm with
  | .narrow m => k m
  | .wide _ => illegal i s
  | .illegal => illegal i s

/-- Runs `k` with the rounding mode, or goes to the X form `x` when the field holds a 2x code (R121). -/
def withRoundingOrX (i : Instr) (rm : BitVec 3) (s : State) (x : XRm → Result) (k : RMode → Result) : Result :=
  match s.rmMeaning rm with
  | .narrow m => k m
  | .wide c => x c
  | .illegal => illegal i s

/-- `require c, else raise IllegalInstruction(insn)` (R80). -/
def requiring (c : Bool) (i : Instr) (s : State) (k : Result) : Result := if c then k else illegal i s

/-- The register number of a pair operand is even (R79). -/
def evenReg (r : FReg) : Bool := !r.getLsbD 0

/-! ### Addresses (R100) -/

/-- `ea = (x[rs1] + imm) mod 2^64`, `imm` sign-extended (R66, R67, R100). -/
def State.ea (s : State) (rs1 : XReg) (imm : BitVec 12) : Word := s.getX rs1 + imm.signExtend 64

/-- The address is a multiple of `n`, the natural alignment of an access of `n` bytes (R43, R44). -/
def aligned (ea : Word) (n : Nat) : Bool := ea.toNat % n == 0

/-! ### Lane templates -/

/-- Lanes of a 64-bit register for a format: `n = 64 / w` (R120). -/
def lanesOf (fmt : Fmt) : Nat := 64 / fmt.width

/-- Lane `k` of a register read in a format (R9). -/
def fmtLane (fmt : Fmt) (k : Nat) (v : Word) : BitVec fmt.width := lane fmt.width k v

/-- `{r_(n-1), …, r_0}` and `fl_0 | … | fl_(n-1)` of `n` lane results (R120). -/
def collect (fmt : Fmt) (n : Nat) (g : Nat → FpResult fmt) : Word × FpFlags :=
  (joinLanes fmt.width n fun k => (g k).1, orFlags n fun k => (g k).2)

/-- `packed1` of R230: a unary operation on every lane. -/
def packed1 (fmt : Fmt) (op : BitVec fmt.width → FpResult fmt) (a : Word) : Word × FpFlags :=
  collect fmt (lanesOf fmt) fun k => op (fmtLane fmt k a)

/-- `packed` of R120: a binary operation on every pair of same-numbered lanes. -/
def packed2 (fmt : Fmt) (op : BitVec fmt.width → BitVec fmt.width → FpResult fmt) (a b : Word) : Word × FpFlags :=
  collect fmt (lanesOf fmt) fun k => op (fmtLane fmt k a) (fmtLane fmt k b)

/-- The loop of R251: a ternary operation on every triple of same-numbered lanes. -/
def packed3 (fmt : Fmt) (op : BitVec fmt.width → BitVec fmt.width → BitVec fmt.width → FpResult fmt)
    (a b c : Word) : Word × FpFlags :=
  collect fmt (lanesOf fmt) fun k => op (fmtLane fmt k a) (fmtLane fmt k b) (fmtLane fmt k c)

/-- `c` holds of the lanes 1 to `n` of a register. -/
def highLanesAll (fmt : Fmt) (c : BitVec fmt.width → Bool) (v : Word) : (n : Nat) → Bool
  | 0 => true
  | n + 1 => highLanesAll fmt c v n && c (fmtLane fmt (n + 1) v)

/-- `HighNaN(fmt, v)`: every lane other than lane 0 is a NaN (R32). -/
def highNaN (fmt : Fmt) (v : Word) : Bool := highLanesAll fmt (isNaN fmt) v (lanesOf fmt - 1)

end Sys2Proof.Machine
end

