-- ==== Sys2Proof/Machine/Arith.lean ====
section
/-! DEFINITION. Packed add, subtract, multiply, divide (41_arith.md rules R120 to R149). -/

namespace Sys2Proof.Machine

/-- The four binary operations of R120. -/
inductive ArithOp where
  | add | sub | mul | div
  deriving DecidableEq, Repr

/-- The `Numerics` primitive of an operation (R12, R120). -/
def arithFn (N : Numerics) : ArithOp → (fmt : Fmt) → RMode → BitVec fmt.width → BitVec fmt.width → FpResult fmt
  | .add => N.add
  | .sub => N.sub
  | .mul => N.mul
  | .div => N.div

/-- `packed(op, fmt, rmode, a, b)` with the machine's `Numerics` (R120). -/
def State.packedArith (s : State) (op : ArithOp) (fmt : Fmt) (m : RMode) (a b : Word) : Word × FpFlags :=
  packed2 fmt (arithFn (numericsOf s.params) op fmt m) a b

/-- The parameters an X form needs: HAS_X128, with HAS_X128_H for .H and HAS_PDIVX for PDIVX (R136). -/
def arithXPresent (p : Params) (op : ArithOp) (fmt : Fmt) : Bool :=
  p.hasX128 && (p.hasX128H || fmt != .H) && (p.hasPdivx || op != .div)

/-- The X template of R136: a 128-bit pair, all four sources read first. -/
def arithX (i : Instr) (op : ArithOp) (fmt : Fmt) (rd rs1 rs2 : FReg) (x : XRm) (s : State) : Result :=
  requiring (arithXPresent s.params op fmt && (evenReg rd && evenReg rs1 && evenReg rs2)) i s <|
    let lo := s.packedArith op fmt (XRm.rounding x) (s.getF rs1) (s.getF rs2)
    let hi := s.packedArith op fmt (XRm.rounding x) (s.getF (highReg rs1)) (s.getF (highReg rs2))
    s.finishPair rd lo.1 hi.1 (lo.2 ||| hi.2)

/-- The 64-bit template of R121. -/
def arith64 (i : Instr) (op : ArithOp) (fmt : Fmt) (rd rs1 rs2 : FReg) (rm : BitVec 3) (s : State) : Result :=
  withRoundingOrX i rm s (fun x => arithX i op fmt rd rs1 rs2 x s) fun m =>
    let r := s.packedArith op fmt m (s.getF rs1) (s.getF rs2)
    s.finishFp rd r.1 r.2

/-- A scalar operation on lane 0 whose result is NaN-boxed: what a machine without a packed unit does (R131). -/
def State.scalarArith (s : State) (op : ArithOp) (fmt : Fmt) (m : RMode) (a b : Word) : Word × FpFlags :=
  let r := arithFn (numericsOf s.params) op fmt m (fmtLane fmt 0 a) (fmtLane fmt 0 b)
  (nanbox r.1, r.2)

/-- PDIV as `PDIV_IMPL` carries it out (R131). -/
def packedDivide (i : Instr) (fmt : Fmt) (rd rs1 rs2 : FReg) (rm : BitVec 3) (s : State) : Result :=
  withRoundingOrX i rm s (fun x => arithX i .div fmt rd rs1 rs2 x s) fun m =>
    let a := s.getF rs1
    let b := s.getF rs2
    let full := s.packedArith .div fmt m a b
    let one := s.scalarArith .div fmt m a b
    match s.params.pdivImpl with
    | .simd => s.finishFp rd full.1 full.2
    | .scalarOrEmulate =>
      if highNaN fmt a && highNaN fmt b then s.finishFp rd one.1 one.2
      else if s.params.emulationVisible then emulate i s
      else s.finishFp rd full.1 full.2

/-- PADD.S: `f[rs1] + f[rs2]` in each of the 2 lanes (R123, R121) -/
def execPaddS (rd rs1 rs2 : FReg) (rm : BitVec 3) (s : State) : Result :=
  arith64 (.paddS rd rs1 rs2 rm) .add .S rd rs1 rs2 rm s

/-- PSUB.S: `f[rs1] - f[rs2]` in each of the 2 lanes (R124, R121) -/
def execPsubS (rd rs1 rs2 : FReg) (rm : BitVec 3) (s : State) : Result :=
  arith64 (.psubS rd rs1 rs2 rm) .sub .S rd rs1 rs2 rm s

/-- PMUL.S: `f[rs1] * f[rs2]` in each of the 2 lanes (R125, R121) -/
def execPmulS (rd rs1 rs2 : FReg) (rm : BitVec 3) (s : State) : Result :=
  arith64 (.pmulS rd rs1 rs2 rm) .mul .S rd rs1 rs2 rm s

/-- PADD.H: `f[rs1] + f[rs2]` in each of the 4 lanes (R126, R121) -/
def execPaddH (rd rs1 rs2 : FReg) (rm : BitVec 3) (s : State) : Result :=
  arith64 (.paddH rd rs1 rs2 rm) .add .H rd rs1 rs2 rm s

/-- PSUB.H: `f[rs1] - f[rs2]` in each of the 4 lanes (R127, R121) -/
def execPsubH (rd rs1 rs2 : FReg) (rm : BitVec 3) (s : State) : Result :=
  arith64 (.psubH rd rs1 rs2 rm) .sub .H rd rs1 rs2 rm s

/-- PMUL.H: `f[rs1] * f[rs2]` in each of the 4 lanes (R128, R121) -/
def execPmulH (rd rs1 rs2 : FReg) (rm : BitVec 3) (s : State) : Result :=
  arith64 (.pmulH rd rs1 rs2 rm) .mul .H rd rs1 rs2 rm s

/-- PDIV.S: `f[rs1] / f[rs2]` in each of the 2 lanes, as PDIV_IMPL carries it out (R129, R131) -/
def execPdivS (rd rs1 rs2 : FReg) (rm : BitVec 3) (s : State) : Result :=
  packedDivide (.pdivS rd rs1 rs2 rm) .S rd rs1 rs2 rm s

/-- PDIV.H: `f[rs1] / f[rs2]` in each of the 4 lanes, as PDIV_IMPL carries it out (R130, R131) -/
def execPdivH (rd rs1 rs2 : FReg) (rm : BitVec 3) (s : State) : Result :=
  packedDivide (.pdivH rd rs1 rs2 rm) .H rd rs1 rs2 rm s

/-- PADDX.S: `XF[rs1] + XF[rs2]` in each of the 4 lanes of the pairs (R137, R136) -/
def execPaddxS (rd rs1 rs2 : FReg) (rm : XRm) (s : State) : Result :=
  arithX (.paddxS rd rs1 rs2 rm) .add .S rd rs1 rs2 rm s

/-- PSUBX.S: `XF[rs1] - XF[rs2]` in each of the 4 lanes of the pairs (R138, R136) -/
def execPsubxS (rd rs1 rs2 : FReg) (rm : XRm) (s : State) : Result :=
  arithX (.psubxS rd rs1 rs2 rm) .sub .S rd rs1 rs2 rm s

/-- PMULX.S: `XF[rs1] * XF[rs2]` in each of the 4 lanes of the pairs (R139, R136) -/
def execPmulxS (rd rs1 rs2 : FReg) (rm : XRm) (s : State) : Result :=
  arithX (.pmulxS rd rs1 rs2 rm) .mul .S rd rs1 rs2 rm s

/-- PADDX.D: `XF[rs1] + XF[rs2]` in each of the 2 lanes of the pairs (R140, R136) -/
def execPaddxD (rd rs1 rs2 : FReg) (rm : XRm) (s : State) : Result :=
  arithX (.paddxD rd rs1 rs2 rm) .add .D rd rs1 rs2 rm s

/-- FADD.D: `f[rs1] + f[rs2]` in its one lane (R132, R121) -/
def execFaddD (rd rs1 rs2 : FReg) (rm : BitVec 3) (s : State) : Result :=
  arith64 (.faddD rd rs1 rs2 rm) .add .D rd rs1 rs2 rm s

/-- PSUBX.D: `XF[rs1] - XF[rs2]` in each of the 2 lanes of the pairs (R141, R136) -/
def execPsubxD (rd rs1 rs2 : FReg) (rm : XRm) (s : State) : Result :=
  arithX (.psubxD rd rs1 rs2 rm) .sub .D rd rs1 rs2 rm s

/-- FSUB.D: `f[rs1] - f[rs2]` in its one lane (R133, R121) -/
def execFsubD (rd rs1 rs2 : FReg) (rm : BitVec 3) (s : State) : Result :=
  arith64 (.fsubD rd rs1 rs2 rm) .sub .D rd rs1 rs2 rm s

/-- PMULX.D: `XF[rs1] * XF[rs2]` in each of the 2 lanes of the pairs (R142, R136) -/
def execPmulxD (rd rs1 rs2 : FReg) (rm : XRm) (s : State) : Result :=
  arithX (.pmulxD rd rs1 rs2 rm) .mul .D rd rs1 rs2 rm s

/-- FMUL.D: `f[rs1] * f[rs2]` in its one lane (R134, R121) -/
def execFmulD (rd rs1 rs2 : FReg) (rm : BitVec 3) (s : State) : Result :=
  arith64 (.fmulD rd rs1 rs2 rm) .mul .D rd rs1 rs2 rm s

/-- PADDX.H: `XF[rs1] + XF[rs2]` in each of the 8 lanes of the pairs (R143, R136) -/
def execPaddxH (rd rs1 rs2 : FReg) (rm : XRm) (s : State) : Result :=
  arithX (.paddxH rd rs1 rs2 rm) .add .H rd rs1 rs2 rm s

/-- PSUBX.H: `XF[rs1] - XF[rs2]` in each of the 8 lanes of the pairs (R144, R136) -/
def execPsubxH (rd rs1 rs2 : FReg) (rm : XRm) (s : State) : Result :=
  arithX (.psubxH rd rs1 rs2 rm) .sub .H rd rs1 rs2 rm s

/-- PMULX.H: `XF[rs1] * XF[rs2]` in each of the 8 lanes of the pairs (R145, R136) -/
def execPmulxH (rd rs1 rs2 : FReg) (rm : XRm) (s : State) : Result :=
  arithX (.pmulxH rd rs1 rs2 rm) .mul .H rd rs1 rs2 rm s

/-- PDIVX.S: `XF[rs1] / XF[rs2]` in each of the 4 lanes of the pairs (R146, R136) -/
def execPdivxS (rd rs1 rs2 : FReg) (rm : XRm) (s : State) : Result :=
  arithX (.pdivxS rd rs1 rs2 rm) .div .S rd rs1 rs2 rm s

/-- PDIVX.D: `XF[rs1] / XF[rs2]` in each of the 2 lanes of the pairs (R147, R136) -/
def execPdivxD (rd rs1 rs2 : FReg) (rm : XRm) (s : State) : Result :=
  arithX (.pdivxD rd rs1 rs2 rm) .div .D rd rs1 rs2 rm s

/-- FDIV.D: `f[rs1] / f[rs2]` in its one lane (R135, R121) -/
def execFdivD (rd rs1 rs2 : FReg) (rm : BitVec 3) (s : State) : Result :=
  arith64 (.fdivD rd rs1 rs2 rm) .div .D rd rs1 rs2 rm s

/-- PDIVX.H: `XF[rs1] / XF[rs2]` in each of the 8 lanes of the pairs (R148, R136) -/
def execPdivxH (rd rs1 rs2 : FReg) (rm : XRm) (s : State) : Result :=
  arithX (.pdivxH rd rs1 rs2 rm) .div .H rd rs1 rs2 rm s

end Sys2Proof.Machine
end

