-- ==== Sys2Proof/Machine/BaseImports.lean ====
section
/-! DEFINITION. The imported base instructions (48_base_imports.md rules R290 to R296). -/

namespace Sys2Proof.Machine

/-- FMV.X.D: `x[rd] <- f[rs1]`, all 64 bits unchanged (R291) -/
def execFmvXD (rd : XReg) (rs1 : FReg) (s : State) : Result :=
  s.finishX rd (s.getF rs1)

/-- FMV.D.X: `f[rd] <- x[rs1]`, all 64 bits unchanged (R292) -/
def execFmvDX (rd : FReg) (rs1 : XReg) (s : State) : Result :=
  s.finishF rd (s.getX rs1)

/-- SUB: `x[rd] <- (x[rs1] - x[rs2]) mod 2^64` (R293) -/
def execSub (rd rs1 rs2 : XReg) (s : State) : Result :=
  s.finishX rd (s.getX rs1 - s.getX rs2)

/-- ADDI: `x[rd] <- (x[rs1] + sext(imm)) mod 2^64` (R296) -/
def execAddi (rd rs1 : XReg) (imm : BitVec 12) (s : State) : Result :=
  s.finishX rd (s.getX rs1 + imm.signExtend 64)

/-- The jump target of JALR: bit 0 of the sum cleared (R294). -/
def State.jalrTarget (s : State) (rs1 : XReg) (imm : BitVec 12) : Word := (s.getX rs1 + imm.signExtend 64) &&& ~~~1#64

/-- `pc <- target` (R8). -/
def State.jump (s : State) (t : Word) : State := { s with pc := t }

/-- JALR: jumps to the target and links `pc + 4`; a target with bit 1 set raises InstructionAddressMisaligned(t) (R294) -/
def execJalr (rd rs1 : XReg) (imm : BitVec 12) (s : State) : Result :=
  let t := s.jalrTarget rs1 imm
  if t.getLsbD 1 then raiseOut (.instructionAddressMisaligned t) s
  else .next ((s.setX rd (s.pc + 4#64)).jump t)

end Sys2Proof.Machine
end

