-- ==== Sys2Proof/Machine/Compare.lean ====
section
/-! DEFINITION. Compares (42_sign_compare_minmax.md rules R170 to R179). -/

namespace Sys2Proof.Machine

/-- A compare of the low elements: the result 0 or 1 goes to `x[rd]`, the flags are accrued even when `rd` is 0, and
the high lanes are ignored (R170). -/
def compareLow (fmt : Fmt) (op : BitVec fmt.width → BitVec fmt.width → Bool × FpFlags) (rd : XReg) (rs1 rs2 : FReg)
    (s : State) : Result :=
  let r := op (fmtLane fmt 0 (s.getF rs1)) (fmtLane fmt 0 (s.getF rs2))
  s.finishCmp rd (if r.1 then 1#64 else 0#64) r.2

/-- FLE.S: `x[rd] <- (f[rs1] <= f[rs2])` on the low .S elements (R171, R170) -/
def execFleS (rd : XReg) (rs1 rs2 : FReg) (s : State) : Result :=
  compareLow .S ((numericsOf s.params).le .S) rd rs1 rs2 s

/-- FLT.S: `x[rd] <- (f[rs1] < f[rs2])` on the low .S elements (R172, R170) -/
def execFltS (rd : XReg) (rs1 rs2 : FReg) (s : State) : Result :=
  compareLow .S ((numericsOf s.params).lt .S) rd rs1 rs2 s

/-- FEQ.S: `x[rd] <- (f[rs1] = f[rs2])` on the low .S elements (R173, R170) -/
def execFeqS (rd : XReg) (rs1 rs2 : FReg) (s : State) : Result :=
  compareLow .S ((numericsOf s.params).eq .S) rd rs1 rs2 s

/-- FLE.D: `x[rd] <- (f[rs1] <= f[rs2])` on the low .D elements (R174, R170) -/
def execFleD (rd : XReg) (rs1 rs2 : FReg) (s : State) : Result :=
  compareLow .D ((numericsOf s.params).le .D) rd rs1 rs2 s

/-- FLT.D: `x[rd] <- (f[rs1] < f[rs2])` on the low .D elements (R175, R170) -/
def execFltD (rd : XReg) (rs1 rs2 : FReg) (s : State) : Result :=
  compareLow .D ((numericsOf s.params).lt .D) rd rs1 rs2 s

/-- FEQ.D: `x[rd] <- (f[rs1] = f[rs2])` on the low .D elements (R176, R170) -/
def execFeqD (rd : XReg) (rs1 rs2 : FReg) (s : State) : Result :=
  compareLow .D ((numericsOf s.params).eq .D) rd rs1 rs2 s

/-- FLE.H: `x[rd] <- (f[rs1] <= f[rs2])` on the low .H elements (R177, R170) -/
def execFleH (rd : XReg) (rs1 rs2 : FReg) (s : State) : Result :=
  compareLow .H ((numericsOf s.params).le .H) rd rs1 rs2 s

/-- FLT.H: `x[rd] <- (f[rs1] < f[rs2])` on the low .H elements (R178, R170) -/
def execFltH (rd : XReg) (rs1 rs2 : FReg) (s : State) : Result :=
  compareLow .H ((numericsOf s.params).lt .H) rd rs1 rs2 s

/-- FEQ.H: `x[rd] <- (f[rs1] = f[rs2])` on the low .H elements (R179, R170) -/
def execFeqH (rd : XReg) (rs1 rs2 : FReg) (s : State) : Result :=
  compareLow .H ((numericsOf s.params).eq .H) rd rs1 rs2 s

end Sys2Proof.Machine
end

