-- ==== Sys2Proof/Machine/Convert.lean ====
section
/-! DEFINITION. Conversions (44_convert.md rules R200 to R218). -/

namespace Sys2Proof.Machine

/-- `fp_cvt(dst, src, rmode, e)` on lane `k` of a register (R200). -/
def State.cvtLane (s : State) (dst src : Fmt) (m : RMode) (v : Word) (k : Nat) : FpResult dst :=
  (numericsOf s.params).cvt dst src m (fmtLane src k v)

/-- A scalar conversion to Binary64: the low element of the source, all 64 bits of the result (R201 c, R204). -/
def cvtToD (i : Instr) (src : Fmt) (rd rs1 : FReg) (rm : BitVec 3) (s : State) : Result :=
  withRounding i rm s fun m =>
    let r := s.cvtLane .D src m (s.getF rs1) 0
    s.finishFp rd r.1 r.2

/-- A scalar narrowing conversion from Binary64: the result is NaN-boxed (R201 a, R203). -/
def cvtFromD (i : Instr) (dst : Fmt) (rd rs1 : FReg) (rm : BitVec 3) (s : State) : Result :=
  withRounding i rm s fun m =>
    let r := s.cvtLane dst .D m (s.getF rs1) 0
    s.finishFp rd (nanbox r.1) r.2

/-- Two 16-bit lanes of `v`, from lane `k` on, as two Binary32 lanes `{r1, r0}` with their flags (R209, R213). -/
def State.widenPair (s : State) (src : Fmt) (m : RMode) (v : Word) (k : Nat) : BitVec (32 + 32) × FpFlags :=
  let r0 := s.cvtLane .S src m v k
  let r1 := s.cvtLane .S src m v (k + 1)
  (r1.1 ++ r0.1, r0.2 ||| r1.2)

/-- The two Binary32 lanes of `v` as two 16-bit lanes `{r1, r0}` with their flags (R210). -/
def State.narrowPair (s : State) (dst : Fmt) (m : RMode) (v : Word) : BitVec (dst.width + dst.width) × FpFlags :=
  let r0 := s.cvtLane dst .S m v 0
  let r1 := s.cvtLane dst .S m v 1
  (r1.1 ++ r0.1, r0.2 ||| r1.2)

/-- PCVTX from 16-bit lanes: four lanes of one register into a pair (R215). -/
def widenX (i : Instr) (src : Fmt) (rd rs1 : FReg) (x : XRm) (s : State) : Result :=
  requiring (s.params.hasX128 && evenReg rd) i s <|
    let lo := s.widenPair src (XRm.rounding x) (s.getF rs1) 0
    let hi := s.widenPair src (XRm.rounding x) (s.getF rs1) 2
    s.finishPair rd lo.1 hi.1 (lo.2 ||| hi.2)

/-- PCVTX to 16-bit lanes: a pair into four lanes of one register (R216). -/
def narrowX (i : Instr) (dst : Fmt) (rd rs1 : FReg) (x : XRm) (s : State) : Result :=
  requiring (s.params.hasX128 && evenReg rs1) i s <|
    let lo := s.narrowPair dst (XRm.rounding x) (s.getF rs1)
    let hi := s.narrowPair dst (XRm.rounding x) (s.getF (highReg rs1))
    s.finishFp rd (hi.1.setWidth 32 ++ lo.1.setWidth 32) (lo.2 ||| hi.2)

/-- PCVT from 16-bit lanes: lanes 0 and 1 (R209). -/
def widenLow (i : Instr) (src : Fmt) (rd rs1 : FReg) (rm : BitVec 3) (s : State) : Result :=
  withRoundingOrX i rm s (fun x => widenX i src rd rs1 x s) fun m =>
    let r := s.widenPair src m (s.getF rs1) 0
    s.finishFp rd r.1 r.2

/-- PCVTHI: lanes 2 and 3; no X form (R213). -/
def widenHigh (i : Instr) (src : Fmt) (rd rs1 : FReg) (rm : BitVec 3) (s : State) : Result :=
  withRounding i rm s fun m =>
    let r := s.widenPair src m (s.getF rs1) 2
    s.finishFp rd r.1 r.2

/-- PCVT to 16-bit lanes: two results in bits 31:0, CVT_NARROW_HIGH above them (R201 b, R210). -/
def narrowLow (i : Instr) (dst : Fmt) (rd rs1 : FReg) (rm : BitVec 3) (s : State) : Result :=
  withRoundingOrX i rm s (fun x => narrowX i dst rd rs1 x s) fun m =>
    let r := s.narrowPair dst m (s.getF rs1)
    s.finishFp rd (s.params.cvtNarrowHigh ++ r.1.setWidth 32) r.2

/-- FCVT.S.D: Binary64 as a NaN-boxed Binary32 scalar (R203) -/
def execFcvtSD (rd rs1 : FReg) (rm : BitVec 3) (s : State) : Result :=
  cvtFromD (.fcvtSD rd rs1 rm) .S rd rs1 rm s

/-- FCVT.D.S: the low Binary32 element as Binary64 (R204) -/
def execFcvtDS (rd rs1 : FReg) (rm : BitVec 3) (s : State) : Result :=
  cvtToD (.fcvtDS rd rs1 rm) .S rd rs1 rm s

/-- PCVT.S.H: Binary16 lanes 0 and 1 as two Binary32 lanes (R209) -/
def execPcvtSH (rd rs1 : FReg) (rm : BitVec 3) (s : State) : Result :=
  widenLow (.pcvtSH rd rs1 rm) .H rd rs1 rm s

/-- PCVT.H.S: two Binary32 lanes as Binary16 lanes 0 and 1 (R210) -/
def execPcvtHS (rd rs1 : FReg) (rm : BitVec 3) (s : State) : Result :=
  narrowLow (.pcvtHS rd rs1 rm) .H rd rs1 rm s

/-- FCVT.D.H: the low Binary16 element as Binary64 (R205) -/
def execFcvtDH (rd rs1 : FReg) (rm : BitVec 3) (s : State) : Result :=
  cvtToD (.fcvtDH rd rs1 rm) .H rd rs1 rm s

/-- FCVT.H.D: Binary64 as a NaN-boxed Binary16 scalar (R206) -/
def execFcvtHD (rd rs1 : FReg) (rm : BitVec 3) (s : State) : Result :=
  cvtFromD (.fcvtHD rd rs1 rm) .H rd rs1 rm s

/-- PCVT.S.BF16: BF16 lanes 0 and 1 as two Binary32 lanes (R211) -/
def execPcvtSBf16 (rd rs1 : FReg) (rm : BitVec 3) (s : State) : Result :=
  widenLow (.pcvtSBf16 rd rs1 rm) .B rd rs1 rm s

/-- PCVT.BF16.S: two Binary32 lanes as BF16 lanes 0 and 1 (R212) -/
def execPcvtBf16S (rd rs1 : FReg) (rm : BitVec 3) (s : State) : Result :=
  narrowLow (.pcvtBf16S rd rs1 rm) .B rd rs1 rm s

/-- FCVT.D.BF16: the low BF16 element as Binary64 (R207) -/
def execFcvtDBf16 (rd rs1 : FReg) (rm : BitVec 3) (s : State) : Result :=
  cvtToD (.fcvtDBf16 rd rs1 rm) .B rd rs1 rm s

/-- FCVT.BF16.D: Binary64 as a NaN-boxed BF16 scalar (R208) -/
def execFcvtBf16D (rd rs1 : FReg) (rm : BitVec 3) (s : State) : Result :=
  cvtFromD (.fcvtBf16D rd rs1 rm) .B rd rs1 rm s

/-- PCVTHI.S.H: Binary16 lanes 2 and 3 as two Binary32 lanes (R213) -/
def execPcvthiSH (rd rs1 : FReg) (rm : BitVec 3) (s : State) : Result :=
  widenHigh (.pcvthiSH rd rs1 rm) .H rd rs1 rm s

/-- PCVTHI.S.BF16: BF16 lanes 2 and 3 as two Binary32 lanes (R214) -/
def execPcvthiSBf16 (rd rs1 : FReg) (rm : BitVec 3) (s : State) : Result :=
  widenHigh (.pcvthiSBf16 rd rs1 rm) .B rd rs1 rm s

/-- PCVTX.S.H: four Binary16 lanes as the four Binary32 lanes of a pair (R215) -/
def execPcvtxSH (rd rs1 : FReg) (rm : XRm) (s : State) : Result :=
  widenX (.pcvtxSH rd rs1 rm) .H rd rs1 rm s

/-- PCVTX.H.S: the four Binary32 lanes of a pair as four Binary16 lanes (R216) -/
def execPcvtxHS (rd rs1 : FReg) (rm : XRm) (s : State) : Result :=
  narrowX (.pcvtxHS rd rs1 rm) .H rd rs1 rm s

/-- PCVTX.S.BF16: four BF16 lanes as the four Binary32 lanes of a pair (R217) -/
def execPcvtxSBf16 (rd rs1 : FReg) (rm : XRm) (s : State) : Result :=
  widenX (.pcvtxSBf16 rd rs1 rm) .B rd rs1 rm s

/-- PCVTX.BF16.S: the four Binary32 lanes of a pair as four BF16 lanes (R218) -/
def execPcvtxBf16S (rd rs1 : FReg) (rm : XRm) (s : State) : Result :=
  narrowX (.pcvtxBf16S rd rs1 rm) .B rd rs1 rm s

end Sys2Proof.Machine
end

