-- ==== Sys2Proof/Machine/Fma.lean ====
section
/-! DEFINITION. Fused multiply-add (46_fma.md rules R250 to R261). -/

namespace Sys2Proof.Machine

/-- The multiply-add of every lane, one rounding each (R251). -/
def State.packedFma (s : State) (fmt : Fmt) (m : RMode) (negp negc : Bool) (a b c : Word) : Word × FpFlags :=
  packed3 fmt (fun x y z => (numericsOf s.params).fma fmt m x y z negp negc) a b c

/-- The scalar FMADD of lane 0, NaN-boxed (R252). -/
def State.scalarFma (s : State) (fmt : Fmt) (m : RMode) (negp negc : Bool) (a b c : Word) : Word × FpFlags :=
  let r := (numericsOf s.params).fma fmt m (fmtLane fmt 0 a) (fmtLane fmt 0 b) (fmtLane fmt 0 c) negp negc
  (nanbox r.1, r.2)

/-- The PMADD family: packed with HAS_PMADD (R251), the scalar FMADD family without (R252); no X form (R78). -/
def multiplyAdd (i : Instr) (fmt : Fmt) (negp negc : Bool) (rd rs1 rs2 rs3 : FReg) (rm : BitVec 3) (s : State) :
    Result :=
  withRounding i rm s fun m =>
    let r := if s.params.hasPmadd then s.packedFma fmt m negp negc (s.getF rs1) (s.getF rs2) (s.getF rs3)
      else s.scalarFma fmt m negp negc (s.getF rs1) (s.getF rs2) (s.getF rs3)
    s.finishFp rd r.1 r.2

/-- PMADD.S: `f[rs1] * f[rs2] + f[rs3]` (R254, R250) -/
def execPmaddS (rd rs1 rs2 rs3 : FReg) (rm : BitVec 3) (s : State) : Result :=
  multiplyAdd (.pmaddS rd rs1 rs2 rs3 rm) .S false false rd rs1 rs2 rs3 rm s

/-- PMADD.H: `f[rs1] * f[rs2] + f[rs3]` (R255, R250) -/
def execPmaddH (rd rs1 rs2 rs3 : FReg) (rm : BitVec 3) (s : State) : Result :=
  multiplyAdd (.pmaddH rd rs1 rs2 rs3 rm) .H false false rd rs1 rs2 rs3 rm s

/-- PMSUB.S: `f[rs1] * f[rs2] - f[rs3]` (R256, R250) -/
def execPmsubS (rd rs1 rs2 rs3 : FReg) (rm : BitVec 3) (s : State) : Result :=
  multiplyAdd (.pmsubS rd rs1 rs2 rs3 rm) .S false true rd rs1 rs2 rs3 rm s

/-- PMSUB.H: `f[rs1] * f[rs2] - f[rs3]` (R257, R250) -/
def execPmsubH (rd rs1 rs2 rs3 : FReg) (rm : BitVec 3) (s : State) : Result :=
  multiplyAdd (.pmsubH rd rs1 rs2 rs3 rm) .H false true rd rs1 rs2 rs3 rm s

/-- PNMSUB.S: `-(f[rs1] * f[rs2]) + f[rs3]` (R258, R250) -/
def execPnmsubS (rd rs1 rs2 rs3 : FReg) (rm : BitVec 3) (s : State) : Result :=
  multiplyAdd (.pnmsubS rd rs1 rs2 rs3 rm) .S true false rd rs1 rs2 rs3 rm s

/-- PNMSUB.H: `-(f[rs1] * f[rs2]) + f[rs3]` (R259, R250) -/
def execPnmsubH (rd rs1 rs2 rs3 : FReg) (rm : BitVec 3) (s : State) : Result :=
  multiplyAdd (.pnmsubH rd rs1 rs2 rs3 rm) .H true false rd rs1 rs2 rs3 rm s

/-- PNMADD.S: `-(f[rs1] * f[rs2]) - f[rs3]` (R260, R250) -/
def execPnmaddS (rd rs1 rs2 rs3 : FReg) (rm : BitVec 3) (s : State) : Result :=
  multiplyAdd (.pnmaddS rd rs1 rs2 rs3 rm) .S true true rd rs1 rs2 rs3 rm s

/-- PNMADD.H: `-(f[rs1] * f[rs2]) - f[rs3]` (R261, R250) -/
def execPnmaddH (rd rs1 rs2 rs3 : FReg) (rm : BitVec 3) (s : State) : Result :=
  multiplyAdd (.pnmaddH rd rs1 rs2 rs3 rm) .H true true rd rs1 rs2 rs3 rm s

end Sys2Proof.Machine
end

