-- ==== Sys2Proof/Machine/LoadStore.lean ====
section
/-! DEFINITION. Floating-point loads and stores (40_load_store.md rules R100 to R108). -/

namespace Sys2Proof.Machine

/-- The checks of a load of `n` bytes at `ea`, in the order of R307: alignment to `al` unless `anyAlign`, then
validity of every byte (R43, R44, R46). -/
def checkedLoad (ea : Word) (n al : Nat) (anyAlign : Bool) (s : State) (k : Result) : Result :=
  if !anyAlign && !aligned ea al then raiseOut (.loadAddressMisaligned ea) s
  else if !s.accessValid ea n then raiseOut (.loadAccessFault ea) s
  else k

/-- The checks of a store, as of a load (R43, R44, R46), `fault` being what an access fault does; then a store that
overlaps the program text is refused (R54). -/
def checkedStore (ea : Word) (n al : Nat) (anyAlign : Bool) (s : State) (fault k : Result) : Result :=
  if !anyAlign && !aligned ea al then raiseOut (.storeAddressMisaligned ea) s
  else if !s.accessValid ea n then fault
  else if !s.avoidsText ea n then .refused (.storeToText ea)
  else k

/-- A load of `n` bytes into one register, `fill` making 64 bits of the value read (R42, R100). -/
def loadOne (n : Nat) (fill : Word → Word) (rd : FReg) (rs1 : XReg) (imm : BitVec 12) (s : State) : Result :=
  let ea := s.ea rs1 imm
  checkedLoad ea n n s.params.misalignedOk s (s.finishF rd (fill (s.memRead ea n)))

/-- A store of the `n` low bytes of one register (R42, R100). -/
def storeOne (n : Nat) (rs1 : XReg) (imm : BitVec 12) (rs2 : FReg) (s : State) : Result :=
  let ea := s.ea rs1 imm
  checkedStore ea n n s.params.misalignedOk s (raiseOut (.storeAccessFault ea) s)
    (.next (s.memWrite ea (s.getF rs2) n).advance)

/-- FLH: `f[rd] <- {ones(48), h}` (R101). -/
def execFlh (rd : FReg) (rs1 : XReg) (imm : BitVec 12) (s : State) : Result :=
  loadOne 2 (fun v => nanbox (lane 16 0 v)) rd rs1 imm s

/-- FLW: `f[rd] <- {ones(32), w}` (R102). -/
def execFlw (rd : FReg) (rs1 : XReg) (imm : BitVec 12) (s : State) : Result :=
  loadOne 4 (fun v => nanbox (lane 32 0 v)) rd rs1 imm s

/-- FLD: `f[rd] <- MemRead(ea, 8)` (R103). -/
def execFld (rd : FReg) (rs1 : XReg) (imm : BitVec 12) (s : State) : Result :=
  loadOne 8 (fun v => v) rd rs1 imm s

/-- FLX: two doublewords into an even/odd pair, 8-byte aligned whatever MISALIGNED_OK is (R43, R50, R104). -/
def execFlx (rd : FReg) (rs1 : XReg) (imm : BitVec 12) (s : State) : Result :=
  requiring (s.params.hasFlx && evenReg rd) (.flx rd rs1 imm) s <|
    let ea := s.ea rs1 imm
    checkedLoad ea 16 8 false s
      (.next (s.setPair rd (s.memRead ea 8) (s.memRead (byteAddr ea 8) 8)).advance)

/-- FSH: the low 2 bytes of `f[rs2]` (R105). -/
def execFsh (rs1 : XReg) (imm : BitVec 12) (rs2 : FReg) (s : State) : Result := storeOne 2 rs1 imm rs2 s

/-- FSW: the low 4 bytes of `f[rs2]` (R106). -/
def execFsw (rs1 : XReg) (imm : BitVec 12) (rs2 : FReg) (s : State) : Result := storeOne 4 rs1 imm rs2 s

/-- FSD: all 8 bytes of `f[rs2]` (R107). -/
def execFsd (rs1 : XReg) (imm : BitVec 12) (rs2 : FReg) (s : State) : Result := storeOne 8 rs1 imm rs2 s

/-- The half of a pair store at `ea` that a platform which backs only one of the two can have performed, in either order
(R48): that one. Memory is as before where it backs neither. -/
def State.storeValidHalf (s : State) (ea lo hi : Word) : State :=
  if s.accessValid ea 8 then s.memWrite ea lo 8
  else if s.accessValid (byteAddr ea 8) 8 then s.memWrite (byteAddr ea 8) hi 8
  else s

/-- An FSX with a byte that is not valid raises StoreAccessFault(ea) (R108). Whether it has stored its valid half is a
free value: "the first may already have been performed in memory" (R48, R308; log 13). -/
def pairStoreFault (ea lo hi : Word) (s : State) : Result :=
  raiseOut (.storeAccessFault ea) (if Config.fsxHalfStored s.pc ea then s.storeValidHalf ea lo hi else s)

/-- FSX: a pair as two doublewords, 8-byte aligned whatever MISALIGNED_OK is (R43, R50, R108). -/
def execFsx (rs1 : XReg) (imm : BitVec 12) (rs2 : FReg) (s : State) : Result :=
  requiring (s.params.hasFsx && evenReg rs2) (.fsx rs1 imm rs2) s <|
    let ea := s.ea rs1 imm
    let lo := s.getF rs2
    let hi := s.getF (highReg rs2)
    checkedStore ea 16 8 false s (pairStoreFault ea lo hi s)
      (.next ((s.memWrite ea lo 8).memWrite (byteAddr ea 8) hi 8).advance)

end Sys2Proof.Machine
end

