-- ==== Sys2Proof/Machine/MinMax.lean ====
section
/-! DEFINITION. Minimum and maximum (42_sign_compare_minmax.md rules R180 to R184). -/

namespace Sys2Proof.Machine

/-- Minimum or maximum of every lane; funct3 is a function code, so nothing is rounded and there is no X form
(R180). -/
def packedSelect (fmt : Fmt) (op : BitVec fmt.width → BitVec fmt.width → FpResult fmt) (rd rs1 rs2 : FReg) (s : State) :
    Result :=
  let r := packed2 fmt op (s.getF rs1) (s.getF rs2)
  s.finishFp rd r.1 r.2

/-- PMIN.S: the minimum of each of the 2 lanes (R181, R180) -/
def execPminS (rd rs1 rs2 : FReg) (s : State) : Result :=
  packedSelect .S ((numericsOf s.params).min .S) rd rs1 rs2 s

/-- PMAX.S: the maximum of each of the 2 lanes (R182, R180) -/
def execPmaxS (rd rs1 rs2 : FReg) (s : State) : Result :=
  packedSelect .S ((numericsOf s.params).max .S) rd rs1 rs2 s

/-- PMIN.H: the minimum of each of the 4 lanes (R183, R180) -/
def execPminH (rd rs1 rs2 : FReg) (s : State) : Result :=
  packedSelect .H ((numericsOf s.params).min .H) rd rs1 rs2 s

/-- PMAX.H: the maximum of each of the 4 lanes (R184, R180) -/
def execPmaxH (rd rs1 rs2 : FReg) (s : State) : Result :=
  packedSelect .H ((numericsOf s.params).max .H) rd rs1 rs2 s

end Sys2Proof.Machine
end

