-- ==== Sys2Proof/Machine/Misc.lean ====
section
/-! DEFINITION. Miscellaneous operations (47_misc.md rules R270 to R283). What they compute is a parameter; the
recommended values are the spec's general knowledge. -/

namespace Sys2Proof.Machine

/-- Bits 63:32 or 31:0 (R275). -/
def halfOf (top : Bool) (v : Word) : BitVec 32 := if top then v.extractLsb' 32 32 else v.extractLsb' 0 32

/-- Bits 31:16 or 15:0 of a 32-bit word (R275). -/
def quarterOf (top : Bool) (v : BitVec 32) : BitVec 16 := if top then v.extractLsb' 16 16 else v.extractLsb' 0 16

/-- Recommended `pack(a, b) = {b[31:0], a[31:0]}` (R271). -/
def recPack (a b : Word) : Word := halfOf false b ++ halfOf false a

/-- Recommended `packu(a, b) = {b[63:32], a[63:32]}` (R272). -/
def recPacku (a b : Word) : Word := halfOf true b ++ halfOf true a

/-- Recommended `pkXY32(a, b)` (R275). -/
def recPk32 (x y : Bool) (a b : Word) : Word := halfOf x a ++ halfOf y b

/-- `word(p, q)` of R275. -/
def pkWord (x y : Bool) (p q : BitVec 32) : BitVec 32 := quarterOf x p ++ quarterOf y q

/-- Recommended `pkXY16(a, b)`: each 32-bit half on its own (R275). -/
def recPk16 (x y : Bool) (a b : Word) : Word :=
  pkWord x y (halfOf true a) (halfOf true b) ++ pkWord x y (halfOf false a) (halfOf false b)

/-- The recommended `MiscFns` (R271, R272, R275). -/
def recommendedMiscFns : MiscFns :=
  { pack := recPack, packu := recPacku,
    pkbb16 := recPk16 false false, pkbt16 := recPk16 false true, pktb16 := recPk16 true false,
    pktt16 := recPk16 true true, pkbb32 := recPk32 false false, pkbt32 := recPk32 false true,
    pktb32 := recPk32 true false, pktt32 := recPk32 true true }

/-- The recommended `ShufW`: result lane `i` is source lane `imm[2i+1:2i]` (R273). -/
def recommendedShufW (v : Word) (imm : BitVec 8) : Word :=
  joinLanes 16 4 fun i => lane 16 (imm.extractLsb' (2 * i) 2).toNat v

/-- The `MiscFns` of a machine (R270). -/
def miscFnsOf (p : Params) : MiscFns :=
  match p.miscFns with
  | .recommended => recommendedMiscFns
  | .implementation => Config.miscFns

/-- The `ShufW` of a machine (R270, R273). -/
def shufWOf (p : Params) : Word → BitVec 8 → Word :=
  match p.shufW with
  | .recommended => recommendedShufW
  | .implementation => Config.shufW

/-- `x[rd] <- g(x[rs1], x[rs2])`; exists with HAS_MISC (R80, R270). -/
def misc2 (i : Instr) (g : Word → Word → Word) (rd rs1 rs2 : XReg) (s : State) : Result :=
  requiring s.params.hasMisc i s <| s.finishX rd (g (s.getX rs1) (s.getX rs2))

/-- PACK: `x[rd] <- MiscFns.pack(x[rs1], x[rs2])` (R271) -/
def execPack (rd rs1 rs2 : XReg) (s : State) : Result :=
  misc2 (.pack rd rs1 rs2) (miscFnsOf s.params).pack rd rs1 rs2 s

/-- PACKU: `x[rd] <- MiscFns.packu(x[rs1], x[rs2])` (R272) -/
def execPacku (rd rs1 rs2 : XReg) (s : State) : Result :=
  misc2 (.packu rd rs1 rs2) (miscFnsOf s.params).packu rd rs1 rs2 s

/-- PSHUF.W: `x[rd] <- ShufW(x[rs1], imm8)` (R273) -/
def execPshufW (rd rs1 : XReg) (imm : BitVec 8) (s : State) : Result :=
  requiring s.params.hasMisc (.pshufW rd rs1 imm) s <| s.finishX rd (shufWOf s.params (s.getX rs1) imm)

/-- PFSHUF.W: `f[rd] <- ShufW(f[rs1], imm8)`: a bit move, no flags (R274) -/
def execPfshufW (rd rs1 : FReg) (imm : BitVec 8) (s : State) : Result :=
  requiring s.params.hasMisc (.pfshufW rd rs1 imm) s <| s.finishF rd (shufWOf s.params (s.getF rs1) imm)

/-- PKBB16: `x[rd] <- MiscFns.pkbb16(x[rs1], x[rs2])` (R276) -/
def execPkbb16 (rd rs1 rs2 : XReg) (s : State) : Result :=
  misc2 (.pkbb16 rd rs1 rs2) (miscFnsOf s.params).pkbb16 rd rs1 rs2 s

/-- PKBT16: `x[rd] <- MiscFns.pkbt16(x[rs1], x[rs2])` (R277) -/
def execPkbt16 (rd rs1 rs2 : XReg) (s : State) : Result :=
  misc2 (.pkbt16 rd rs1 rs2) (miscFnsOf s.params).pkbt16 rd rs1 rs2 s

/-- PKTB16: `x[rd] <- MiscFns.pktb16(x[rs1], x[rs2])` (R278) -/
def execPktb16 (rd rs1 rs2 : XReg) (s : State) : Result :=
  misc2 (.pktb16 rd rs1 rs2) (miscFnsOf s.params).pktb16 rd rs1 rs2 s

/-- PKTT16: `x[rd] <- MiscFns.pktt16(x[rs1], x[rs2])` (R279) -/
def execPktt16 (rd rs1 rs2 : XReg) (s : State) : Result :=
  misc2 (.pktt16 rd rs1 rs2) (miscFnsOf s.params).pktt16 rd rs1 rs2 s

/-- PKBB32: `x[rd] <- MiscFns.pkbb32(x[rs1], x[rs2])` (R280) -/
def execPkbb32 (rd rs1 rs2 : XReg) (s : State) : Result :=
  misc2 (.pkbb32 rd rs1 rs2) (miscFnsOf s.params).pkbb32 rd rs1 rs2 s

/-- PKBT32: `x[rd] <- MiscFns.pkbt32(x[rs1], x[rs2])` (R281) -/
def execPkbt32 (rd rs1 rs2 : XReg) (s : State) : Result :=
  misc2 (.pkbt32 rd rs1 rs2) (miscFnsOf s.params).pkbt32 rd rs1 rs2 s

/-- PKTB32: `x[rd] <- MiscFns.pktb32(x[rs1], x[rs2])` (R282) -/
def execPktb32 (rd rs1 rs2 : XReg) (s : State) : Result :=
  misc2 (.pktb32 rd rs1 rs2) (miscFnsOf s.params).pktb32 rd rs1 rs2 s

/-- PKTT32: `x[rd] <- MiscFns.pktt32(x[rs1], x[rs2])` (R283) -/
def execPktt32 (rd rs1 rs2 : XReg) (s : State) : Result :=
  misc2 (.pktt32 rd rs1 rs2) (miscFnsOf s.params).pktt32 rd rs1 rs2 s

end Sys2Proof.Machine
end

