-- ==== Sys2Proof/Machine/Pack.lean ====
section
/-! DEFINITION. Pack operations (43_pack.md rules R186 and R190 to R199). -/

namespace Sys2Proof.Machine

/-- `selS(v, T)`: the high or low 32 bits (R191). -/
def selS (top : Bool) (v : Word) : BitVec 32 := if top then v.extractLsb' 32 32 else v.extractLsb' 0 32

/-- `selH(v, T)`: bits 31:16 or 15:0 (R191). -/
def selH (top : Bool) (v : Word) : BitVec 16 := if top then v.extractLsb' 16 16 else v.extractLsb' 0 16

/-- FPKab.S: the selection from `f[rs1]` above the selection from `f[rs2]` (R190, R191); exists with HAS_FPK (R80). -/
def packS (i : Instr) (a b : Bool) (rd rs1 rs2 : FReg) (s : State) : Result :=
  requiring s.params.hasFpk i s <| s.finishF rd (selS a (s.getF rs1) ++ selS b (s.getF rs2))

/-- FPKab.H: two 16-bit selections in bits 31:0, zeroes above (R190, R191); exists with HAS_FPK (R80). -/
def packH (i : Instr) (a b : Bool) (rd rs1 rs2 : FReg) (s : State) : Result :=
  requiring s.params.hasFpk i s <| s.finishF rd (0#32 ++ selH a (s.getF rs1) ++ selH b (s.getF rs2))

/-- FPKBB.H: the low part of `f[rs1]` above the low part of `f[rs2]` (R193) -/
def execFpkbbH (rd rs1 rs2 : FReg) (s : State) : Result :=
  packH (.fpkbbH rd rs1 rs2) false false rd rs1 rs2 s

/-- FPKBT.H: the low part of `f[rs1]` above the high part of `f[rs2]` (R194) -/
def execFpkbtH (rd rs1 rs2 : FReg) (s : State) : Result :=
  packH (.fpkbtH rd rs1 rs2) false true rd rs1 rs2 s

/-- FPKTB.H: the high part of `f[rs1]` above the low part of `f[rs2]` (R195) -/
def execFpktbH (rd rs1 rs2 : FReg) (s : State) : Result :=
  packH (.fpktbH rd rs1 rs2) true false rd rs1 rs2 s

/-- FPKTT.H: the high part of `f[rs1]` above the high part of `f[rs2]` (R196) -/
def execFpkttH (rd rs1 rs2 : FReg) (s : State) : Result :=
  packH (.fpkttH rd rs1 rs2) true true rd rs1 rs2 s

/-- FPKBB.S: the low part of `f[rs1]` above the low part of `f[rs2]` (R197) -/
def execFpkbbS (rd rs1 rs2 : FReg) (s : State) : Result :=
  packS (.fpkbbS rd rs1 rs2) false false rd rs1 rs2 s

/-- FPKBT.S: the low part of `f[rs1]` above the high part of `f[rs2]` (R198) -/
def execFpkbtS (rd rs1 rs2 : FReg) (s : State) : Result :=
  packS (.fpkbtS rd rs1 rs2) false true rd rs1 rs2 s

/-- FPKTB.S: the high part of `f[rs1]` above the low part of `f[rs2]` (R199) -/
def execFpktbS (rd rs1 rs2 : FReg) (s : State) : Result :=
  packS (.fpktbS rd rs1 rs2) true false rd rs1 rs2 s

/-- FPKTT.S: the high part of `f[rs1]` above the high part of `f[rs2]` (R186) -/
def execFpkttS (rd rs1 rs2 : FReg) (s : State) : Result :=
  packS (.fpkttS rd rs1 rs2) true true rd rs1 rs2 s

end Sys2Proof.Machine
end

