-- ==== Sys2Proof/Machine/SignInject.lean ====
section
/-! DEFINITION. Sign injection (42_sign_compare_minmax.md rules R160 to R169). -/

namespace Sys2Proof.Machine

/-- `SM(fmt)`: the sign bit of every lane (R160). -/
def signMask : Fmt → Word
  | .D => 0x8000000000000000#64
  | .S => 0x8000000080000000#64
  | .H => 0x8000800080008000#64
  | .B => 0x8000800080008000#64

/-- Value bits of `a`, sign bits of `b` (R160). -/
def sgnj (fmt : Fmt) (a b : Word) : Word := (a &&& ~~~signMask fmt) ||| (b &&& signMask fmt)

/-- Value bits of `a`, inverted sign bits of `b` (R160). -/
def sgnjn (fmt : Fmt) (a b : Word) : Word := (a &&& ~~~signMask fmt) ||| (~~~b &&& signMask fmt)

/-- `a` with the sign bits of `b` XORed in (R160). -/
def sgnjx (fmt : Fmt) (a b : Word) : Word := a ^^^ (b &&& signMask fmt)

/-- PSGNJ.S: `f[rs1]` with the sign bits of `f[rs2]`, in every lane of .S; no flags (R161) -/
def execPsgnjS (rd rs1 rs2 : FReg) (s : State) : Result :=
  s.finishF rd (sgnj .S (s.getF rs1) (s.getF rs2))

/-- PSGNJN.S: `f[rs1]` with the inverted sign bits of `f[rs2]`, in every lane of .S; no flags (R162) -/
def execPsgnjnS (rd rs1 rs2 : FReg) (s : State) : Result :=
  s.finishF rd (sgnjn .S (s.getF rs1) (s.getF rs2))

/-- PSGNJX.S: `f[rs1]` with the sign bits of both XORed, in every lane of .S; no flags (R163) -/
def execPsgnjxS (rd rs1 rs2 : FReg) (s : State) : Result :=
  s.finishF rd (sgnjx .S (s.getF rs1) (s.getF rs2))

/-- FSGNJ.D: `f[rs1]` with the sign bits of `f[rs2]`, in every lane of .D; no flags (R164) -/
def execFsgnjD (rd rs1 rs2 : FReg) (s : State) : Result :=
  s.finishF rd (sgnj .D (s.getF rs1) (s.getF rs2))

/-- FSGNJN.D: `f[rs1]` with the inverted sign bits of `f[rs2]`, in every lane of .D; no flags (R165) -/
def execFsgnjnD (rd rs1 rs2 : FReg) (s : State) : Result :=
  s.finishF rd (sgnjn .D (s.getF rs1) (s.getF rs2))

/-- FSGNJX.D: `f[rs1]` with the sign bits of both XORed, in every lane of .D; no flags (R166) -/
def execFsgnjxD (rd rs1 rs2 : FReg) (s : State) : Result :=
  s.finishF rd (sgnjx .D (s.getF rs1) (s.getF rs2))

/-- PSGNJ.H: `f[rs1]` with the sign bits of `f[rs2]`, in every lane of .H; no flags (R167) -/
def execPsgnjH (rd rs1 rs2 : FReg) (s : State) : Result :=
  s.finishF rd (sgnj .H (s.getF rs1) (s.getF rs2))

/-- PSGNJN.H: `f[rs1]` with the inverted sign bits of `f[rs2]`, in every lane of .H; no flags (R168) -/
def execPsgnjnH (rd rs1 rs2 : FReg) (s : State) : Result :=
  s.finishF rd (sgnjn .H (s.getF rs1) (s.getF rs2))

/-- PSGNJX.H: `f[rs1]` with the sign bits of both XORed, in every lane of .H; no flags (R169) -/
def execPsgnjxH (rd rs1 rs2 : FReg) (s : State) : Result :=
  s.finishF rd (sgnjx .H (s.getF rs1) (s.getF rs2))

end Sys2Proof.Machine
end

