-- ==== Sys2Proof/Machine/SqrtHelper.lean ====
section
/-! DEFINITION. Square roots and helper operations (45_sqrt_helper.md rules R230 to R245). -/

namespace Sys2Proof.Machine

/-- `packed1(fp_sqrt, fmt, rmode, a)` (R230). -/
def State.packedSqrt (s : State) (fmt : Fmt) (m : RMode) (a : Word) : Word × FpFlags :=
  packed1 fmt ((numericsOf s.params).sqrt fmt m) a

/-- The square root of lane 0, NaN-boxed (R231). -/
def State.scalarSqrt (s : State) (fmt : Fmt) (m : RMode) (a : Word) : Word × FpFlags :=
  let r := (numericsOf s.params).sqrt fmt m (fmtLane fmt 0 a)
  (nanbox r.1, r.2)

/-- The X template of R232: under ScalarOrEmulate a pair is always the emulated case. -/
def sqrtX (i : Instr) (fmt : Fmt) (rd rs1 : FReg) (x : XRm) (s : State) : Result :=
  requiring (s.params.hasX128 && (evenReg rd && evenReg rs1)) i s <|
    let lo := s.packedSqrt fmt (XRm.rounding x) (s.getF rs1)
    let hi := s.packedSqrt fmt (XRm.rounding x) (s.getF (highReg rs1))
    if decide (s.params.psqrtImpl = .scalarOrEmulate) && s.params.emulationVisible then emulate i s
    else s.finishPair rd lo.1 hi.1 (lo.2 ||| hi.2)

/-- The rounding mode is known: the body of R231 for .S and .H, as PSQRT_IMPL carries it out (R233). -/
def sqrtBody (i : Instr) (fmt : Fmt) (rd rs1 : FReg) (m : RMode) (s : State) : Result :=
  let a := s.getF rs1
  let full := s.packedSqrt fmt m a
  let one := s.scalarSqrt fmt m a
  match s.params.psqrtImpl with
  | .simd => s.finishFp rd full.1 full.2
  | .scalarOrEmulate =>
    if highNaN fmt a then s.finishFp rd one.1 one.2
    else if s.params.emulationVisible then emulate i s
    else s.finishFp rd full.1 full.2

/-- PSQRT.S: the square root of each of the 2 lanes (R234, R231) -/
def execPsqrtS (rd rs1 : FReg) (rm : BitVec 3) (s : State) : Result :=
  withRoundingOrX (.psqrtS rd rs1 rm) rm s (fun x => sqrtX (.psqrtS rd rs1 rm) .S rd rs1 x s) fun m => sqrtBody (.psqrtS rd rs1 rm) .S rd rs1 m s

/-- FSQRT.D: the square root of its one lane, never emulated (R235, R231) -/
def execFsqrtD (rd rs1 : FReg) (rm : BitVec 3) (s : State) : Result :=
  withRoundingOrX (.fsqrtD rd rs1 rm) rm s (fun x => sqrtX (.fsqrtD rd rs1 rm) .D rd rs1 x s) fun m =>
    let r := s.packedSqrt .D m (s.getF rs1)
    s.finishFp rd r.1 r.2

/-- PSQRT.H: the square root of each of the 4 lanes; no X form is listed (R236, R231) -/
def execPsqrtH (rd rs1 : FReg) (rm : BitVec 3) (s : State) : Result :=
  withRounding (.psqrtH rd rs1 rm) rm s fun m => sqrtBody (.psqrtH rd rs1 rm) .H rd rs1 m s

/-- PSQRTX.S: the square root of each of the 4 lanes of a pair (R237, R232) -/
def execPsqrtxS (rd rs1 : FReg) (rm : XRm) (s : State) : Result :=
  sqrtX (.psqrtxS rd rs1 rm) .S rd rs1 rm s

/-- PSQRTX.D: the square root of each of the 2 lanes of a pair (R239, R232) -/
def execPsqrtxD (rd rs1 : FReg) (rm : XRm) (s : State) : Result :=
  sqrtX (.psqrtxD rd rs1 rm) .D rd rs1 rm s

/-- The helper template of R238: an approximation of every lane, by a function the spec leaves uninterpreted; exists
with HAS_HELPER (R80). -/
def helper (i : Instr) (fmt : Fmt) (g : BitVec fmt.width → FpResult fmt) (rd rs1 : FReg) (s : State) : Result :=
  requiring s.params.hasHelper i s <|
    let r := packed1 fmt g (s.getF rs1)
    s.finishFp rd r.1 r.2

/-- PRCPA.S: an approximate reciprocal of every lane (R240, R238) -/
def execPrcpaS (rd rs1 : FReg) (s : State) : Result :=
  helper (.prcpaS rd rs1) .S ((numericsOf s.params).rcpa .S) rd rs1 s

/-- FRCPA.D: an approximate reciprocal of every lane (R241, R238) -/
def execFrcpaD (rd rs1 : FReg) (s : State) : Result :=
  helper (.frcpaD rd rs1) .D ((numericsOf s.params).rcpa .D) rd rs1 s

/-- PRCPA.H: an approximate reciprocal of every lane (R242, R238) -/
def execPrcpaH (rd rs1 : FReg) (s : State) : Result :=
  helper (.prcpaH rd rs1) .H ((numericsOf s.params).rcpa .H) rd rs1 s

/-- PSQRTA.S: an approximate square root of every lane (R243, R238) -/
def execPsqrtaS (rd rs1 : FReg) (s : State) : Result :=
  helper (.psqrtaS rd rs1) .S ((numericsOf s.params).sqrta .S) rd rs1 s

/-- FSQRTA.D: an approximate square root of every lane (R244, R238) -/
def execFsqrtaD (rd rs1 : FReg) (s : State) : Result :=
  helper (.fsqrtaD rd rs1) .D ((numericsOf s.params).sqrta .D) rd rs1 s

/-- PSQRTA.H: an approximate square root of every lane (R245, R238) -/
def execPsqrtaH (rd rs1 : FReg) (s : State) : Result :=
  helper (.psqrtaH rd rs1) .H ((numericsOf s.params).sqrta .H) rd rs1 s

end Sys2Proof.Machine
end

