-- ==== Sys2Proof/Machine/Dispatch.lean ====
section
/-! DEFINITION. One arm per instruction, in the order of spec/opcode_table.json. -/

namespace Sys2Proof.Machine

/-- The meaning of an instruction in a state. -/
def exec (i : Instr) (s : State) : Host.Outcome State Fault Refusal :=
  match i with
  | .flh rd rs1 imm => Sys2Proof.Machine.execFlh rd rs1 imm s
  | .flw rd rs1 imm => Sys2Proof.Machine.execFlw rd rs1 imm s
  | .fld rd rs1 imm => Sys2Proof.Machine.execFld rd rs1 imm s
  | .fsh rs1 imm rs2 => Sys2Proof.Machine.execFsh rs1 imm rs2 s
  | .fsw rs1 imm rs2 => Sys2Proof.Machine.execFsw rs1 imm rs2 s
  | .fsd rs1 imm rs2 => Sys2Proof.Machine.execFsd rs1 imm rs2 s
  | .flx rd rs1 imm => Sys2Proof.Machine.execFlx rd rs1 imm s
  | .fsx rs1 imm rs2 => Sys2Proof.Machine.execFsx rs1 imm rs2 s
  | .paddS rd rs1 rs2 rm => Sys2Proof.Machine.execPaddS rd rs1 rs2 rm s
  | .psubS rd rs1 rs2 rm => Sys2Proof.Machine.execPsubS rd rs1 rs2 rm s
  | .pmulS rd rs1 rs2 rm => Sys2Proof.Machine.execPmulS rd rs1 rs2 rm s
  | .paddH rd rs1 rs2 rm => Sys2Proof.Machine.execPaddH rd rs1 rs2 rm s
  | .psubH rd rs1 rs2 rm => Sys2Proof.Machine.execPsubH rd rs1 rs2 rm s
  | .pmulH rd rs1 rs2 rm => Sys2Proof.Machine.execPmulH rd rs1 rs2 rm s
  | .pdivS rd rs1 rs2 rm => Sys2Proof.Machine.execPdivS rd rs1 rs2 rm s
  | .pdivH rd rs1 rs2 rm => Sys2Proof.Machine.execPdivH rd rs1 rs2 rm s
  | .paddxS rd rs1 rs2 rm => Sys2Proof.Machine.execPaddxS rd rs1 rs2 rm s
  | .psubxS rd rs1 rs2 rm => Sys2Proof.Machine.execPsubxS rd rs1 rs2 rm s
  | .pmulxS rd rs1 rs2 rm => Sys2Proof.Machine.execPmulxS rd rs1 rs2 rm s
  | .paddxD rd rs1 rs2 rm => Sys2Proof.Machine.execPaddxD rd rs1 rs2 rm s
  | .faddD rd rs1 rs2 rm => Sys2Proof.Machine.execFaddD rd rs1 rs2 rm s
  | .psubxD rd rs1 rs2 rm => Sys2Proof.Machine.execPsubxD rd rs1 rs2 rm s
  | .fsubD rd rs1 rs2 rm => Sys2Proof.Machine.execFsubD rd rs1 rs2 rm s
  | .pmulxD rd rs1 rs2 rm => Sys2Proof.Machine.execPmulxD rd rs1 rs2 rm s
  | .fmulD rd rs1 rs2 rm => Sys2Proof.Machine.execFmulD rd rs1 rs2 rm s
  | .paddxH rd rs1 rs2 rm => Sys2Proof.Machine.execPaddxH rd rs1 rs2 rm s
  | .psubxH rd rs1 rs2 rm => Sys2Proof.Machine.execPsubxH rd rs1 rs2 rm s
  | .pmulxH rd rs1 rs2 rm => Sys2Proof.Machine.execPmulxH rd rs1 rs2 rm s
  | .pdivxS rd rs1 rs2 rm => Sys2Proof.Machine.execPdivxS rd rs1 rs2 rm s
  | .pdivxD rd rs1 rs2 rm => Sys2Proof.Machine.execPdivxD rd rs1 rs2 rm s
  | .fdivD rd rs1 rs2 rm => Sys2Proof.Machine.execFdivD rd rs1 rs2 rm s
  | .pdivxH rd rs1 rs2 rm => Sys2Proof.Machine.execPdivxH rd rs1 rs2 rm s
  | .psgnjS rd rs1 rs2 => Sys2Proof.Machine.execPsgnjS rd rs1 rs2 s
  | .psgnjnS rd rs1 rs2 => Sys2Proof.Machine.execPsgnjnS rd rs1 rs2 s
  | .psgnjxS rd rs1 rs2 => Sys2Proof.Machine.execPsgnjxS rd rs1 rs2 s
  | .fsgnjD rd rs1 rs2 => Sys2Proof.Machine.execFsgnjD rd rs1 rs2 s
  | .fsgnjnD rd rs1 rs2 => Sys2Proof.Machine.execFsgnjnD rd rs1 rs2 s
  | .fsgnjxD rd rs1 rs2 => Sys2Proof.Machine.execFsgnjxD rd rs1 rs2 s
  | .psgnjH rd rs1 rs2 => Sys2Proof.Machine.execPsgnjH rd rs1 rs2 s
  | .psgnjnH rd rs1 rs2 => Sys2Proof.Machine.execPsgnjnH rd rs1 rs2 s
  | .psgnjxH rd rs1 rs2 => Sys2Proof.Machine.execPsgnjxH rd rs1 rs2 s
  | .pminS rd rs1 rs2 => Sys2Proof.Machine.execPminS rd rs1 rs2 s
  | .pmaxS rd rs1 rs2 => Sys2Proof.Machine.execPmaxS rd rs1 rs2 s
  | .pminH rd rs1 rs2 => Sys2Proof.Machine.execPminH rd rs1 rs2 s
  | .pmaxH rd rs1 rs2 => Sys2Proof.Machine.execPmaxH rd rs1 rs2 s
  | .fpkbbH rd rs1 rs2 => Sys2Proof.Machine.execFpkbbH rd rs1 rs2 s
  | .fpkbtH rd rs1 rs2 => Sys2Proof.Machine.execFpkbtH rd rs1 rs2 s
  | .fpktbH rd rs1 rs2 => Sys2Proof.Machine.execFpktbH rd rs1 rs2 s
  | .fpkttH rd rs1 rs2 => Sys2Proof.Machine.execFpkttH rd rs1 rs2 s
  | .fpkbbS rd rs1 rs2 => Sys2Proof.Machine.execFpkbbS rd rs1 rs2 s
  | .fpkbtS rd rs1 rs2 => Sys2Proof.Machine.execFpkbtS rd rs1 rs2 s
  | .fpktbS rd rs1 rs2 => Sys2Proof.Machine.execFpktbS rd rs1 rs2 s
  | .fpkttS rd rs1 rs2 => Sys2Proof.Machine.execFpkttS rd rs1 rs2 s
  | .fcvtSD rd rs1 rm => Sys2Proof.Machine.execFcvtSD rd rs1 rm s
  | .fcvtDS rd rs1 rm => Sys2Proof.Machine.execFcvtDS rd rs1 rm s
  | .pcvtSH rd rs1 rm => Sys2Proof.Machine.execPcvtSH rd rs1 rm s
  | .pcvtHS rd rs1 rm => Sys2Proof.Machine.execPcvtHS rd rs1 rm s
  | .fcvtDH rd rs1 rm => Sys2Proof.Machine.execFcvtDH rd rs1 rm s
  | .fcvtHD rd rs1 rm => Sys2Proof.Machine.execFcvtHD rd rs1 rm s
  | .pcvtSBf16 rd rs1 rm => Sys2Proof.Machine.execPcvtSBf16 rd rs1 rm s
  | .pcvtBf16S rd rs1 rm => Sys2Proof.Machine.execPcvtBf16S rd rs1 rm s
  | .fcvtDBf16 rd rs1 rm => Sys2Proof.Machine.execFcvtDBf16 rd rs1 rm s
  | .fcvtBf16D rd rs1 rm => Sys2Proof.Machine.execFcvtBf16D rd rs1 rm s
  | .pcvthiSH rd rs1 rm => Sys2Proof.Machine.execPcvthiSH rd rs1 rm s
  | .pcvthiSBf16 rd rs1 rm => Sys2Proof.Machine.execPcvthiSBf16 rd rs1 rm s
  | .pcvtxSH rd rs1 rm => Sys2Proof.Machine.execPcvtxSH rd rs1 rm s
  | .pcvtxHS rd rs1 rm => Sys2Proof.Machine.execPcvtxHS rd rs1 rm s
  | .pcvtxSBf16 rd rs1 rm => Sys2Proof.Machine.execPcvtxSBf16 rd rs1 rm s
  | .pcvtxBf16S rd rs1 rm => Sys2Proof.Machine.execPcvtxBf16S rd rs1 rm s
  | .psqrtS rd rs1 rm => Sys2Proof.Machine.execPsqrtS rd rs1 rm s
  | .fsqrtD rd rs1 rm => Sys2Proof.Machine.execFsqrtD rd rs1 rm s
  | .psqrtH rd rs1 rm => Sys2Proof.Machine.execPsqrtH rd rs1 rm s
  | .psqrtxS rd rs1 rm => Sys2Proof.Machine.execPsqrtxS rd rs1 rm s
  | .psqrtxD rd rs1 rm => Sys2Proof.Machine.execPsqrtxD rd rs1 rm s
  | .prcpaS rd rs1 => Sys2Proof.Machine.execPrcpaS rd rs1 s
  | .frcpaD rd rs1 => Sys2Proof.Machine.execFrcpaD rd rs1 s
  | .prcpaH rd rs1 => Sys2Proof.Machine.execPrcpaH rd rs1 s
  | .psqrtaS rd rs1 => Sys2Proof.Machine.execPsqrtaS rd rs1 s
  | .fsqrtaD rd rs1 => Sys2Proof.Machine.execFsqrtaD rd rs1 s
  | .psqrtaH rd rs1 => Sys2Proof.Machine.execPsqrtaH rd rs1 s
  | .pmaddS rd rs1 rs2 rs3 rm => Sys2Proof.Machine.execPmaddS rd rs1 rs2 rs3 rm s
  | .pmaddH rd rs1 rs2 rs3 rm => Sys2Proof.Machine.execPmaddH rd rs1 rs2 rs3 rm s
  | .pmsubS rd rs1 rs2 rs3 rm => Sys2Proof.Machine.execPmsubS rd rs1 rs2 rs3 rm s
  | .pmsubH rd rs1 rs2 rs3 rm => Sys2Proof.Machine.execPmsubH rd rs1 rs2 rs3 rm s
  | .pnmsubS rd rs1 rs2 rs3 rm => Sys2Proof.Machine.execPnmsubS rd rs1 rs2 rs3 rm s
  | .pnmsubH rd rs1 rs2 rs3 rm => Sys2Proof.Machine.execPnmsubH rd rs1 rs2 rs3 rm s
  | .pnmaddS rd rs1 rs2 rs3 rm => Sys2Proof.Machine.execPnmaddS rd rs1 rs2 rs3 rm s
  | .pnmaddH rd rs1 rs2 rs3 rm => Sys2Proof.Machine.execPnmaddH rd rs1 rs2 rs3 rm s
  | .pack rd rs1 rs2 => Sys2Proof.Machine.execPack rd rs1 rs2 s
  | .packu rd rs1 rs2 => Sys2Proof.Machine.execPacku rd rs1 rs2 s
  | .pshufW rd rs1 imm => Sys2Proof.Machine.execPshufW rd rs1 imm s
  | .pfshufW rd rs1 imm => Sys2Proof.Machine.execPfshufW rd rs1 imm s
  | .pkbb16 rd rs1 rs2 => Sys2Proof.Machine.execPkbb16 rd rs1 rs2 s
  | .pkbt16 rd rs1 rs2 => Sys2Proof.Machine.execPkbt16 rd rs1 rs2 s
  | .pktb16 rd rs1 rs2 => Sys2Proof.Machine.execPktb16 rd rs1 rs2 s
  | .pktt16 rd rs1 rs2 => Sys2Proof.Machine.execPktt16 rd rs1 rs2 s
  | .pkbb32 rd rs1 rs2 => Sys2Proof.Machine.execPkbb32 rd rs1 rs2 s
  | .pkbt32 rd rs1 rs2 => Sys2Proof.Machine.execPkbt32 rd rs1 rs2 s
  | .pktb32 rd rs1 rs2 => Sys2Proof.Machine.execPktb32 rd rs1 rs2 s
  | .pktt32 rd rs1 rs2 => Sys2Proof.Machine.execPktt32 rd rs1 rs2 s
  | .fleS rd rs1 rs2 => Sys2Proof.Machine.execFleS rd rs1 rs2 s
  | .fltS rd rs1 rs2 => Sys2Proof.Machine.execFltS rd rs1 rs2 s
  | .feqS rd rs1 rs2 => Sys2Proof.Machine.execFeqS rd rs1 rs2 s
  | .fleD rd rs1 rs2 => Sys2Proof.Machine.execFleD rd rs1 rs2 s
  | .fltD rd rs1 rs2 => Sys2Proof.Machine.execFltD rd rs1 rs2 s
  | .feqD rd rs1 rs2 => Sys2Proof.Machine.execFeqD rd rs1 rs2 s
  | .fleH rd rs1 rs2 => Sys2Proof.Machine.execFleH rd rs1 rs2 s
  | .fltH rd rs1 rs2 => Sys2Proof.Machine.execFltH rd rs1 rs2 s
  | .feqH rd rs1 rs2 => Sys2Proof.Machine.execFeqH rd rs1 rs2 s
  | .fmvXD rd rs1 => Sys2Proof.Machine.execFmvXD rd rs1 s
  | .fmvDX rd rs1 => Sys2Proof.Machine.execFmvDX rd rs1 s
  | .sub rd rs1 rs2 => Sys2Proof.Machine.execSub rd rs1 rs2 s
  | .jalr rd rs1 imm => Sys2Proof.Machine.execJalr rd rs1 imm s
  | .addi rd rs1 imm => Sys2Proof.Machine.execAddi rd rs1 imm s

end Sys2Proof.Machine
end

