-- ==== Sys2Proof/Machine/Fetch.lean ====
section
/-! DEFINITION. Instruction fetch (20_memory.md rules R45, R46, R54, R56) and the loading of one instruction word. -/

namespace Sys2Proof.Machine

/-- The four bytes at `pc` as they lie in memory (R56). -/
def State.fetchBytes (s : State) : List Byte :=
  [s.readByte s.pc, s.readByte (byteAddr s.pc 1), s.readByte (byteAddr s.pc 2), s.readByte (byteAddr s.pc 3)]

/-- `insn <- MemRead(pc, 4)` (R56). -/
def State.fetchWord (s : State) : InsnWord := (s.memRead s.pc 4).setWidth 32

/-- No store of this run wrote a byte of the instruction (R54). -/
def State.fetchUnstored (s : State) : Bool := allBytes (fun a => !s.stored.contains a.toNat) s.pc 4

/-- What the fetch finds, checked in the order of R307. -/
inductive Fetched where
  | misaligned
  | accessFault
  | storedByte
  | word (w : InsnWord)
  deriving DecidableEq, Repr

/-- The fetch of R56: alignment, then validity (R307), then R54's condition, then the word. -/
def State.fetch (s : State) : Fetched :=
  if !aligned4 s.pc then .misaligned
  else if !s.accessValid s.pc 4 then .accessFault
  else if !s.fetchUnstored then .storedByte
  else .word s.fetchWord
where
  /-- `pc` is a multiple of 4 (R45). -/
  aligned4 (a : Word) : Bool := a.extractLsb' 0 2 == 0#2

/-- The loader puts the four bytes of an instruction word at `a`, as part of the start state: they are not stores of
the run (R331). -/
def State.loadWord (s : State) (a : Word) (w : InsnWord) : State :=
  let put (m : Memory) (k : Nat) : Memory := m.write (byteAddr a k).toNat (lane 8 k (w.setWidth 64))
  { s with
    mem := put (put (put (put s.mem 0) 1) 2) 3
    stored := s.stored.filter fun n =>
      !(n == (byteAddr a 0).toNat || n == (byteAddr a 1).toNat || n == (byteAddr a 2).toNat || n == (byteAddr a 3).toNat) }

end Sys2Proof.Machine
end

