-- ==== Sys2Proof/Machine/Step.lean ====
section
/-! DEFINITION. One step of the hart (20_memory.md rule R56, 70_reset_and_hazards.md rule R335). -/

namespace Sys2Proof.Machine

/-- What a decoded word does: an instruction executes, a reserved word raises `IllegalInstruction`, and a word outside
the spec is refused (R70). -/
def execDecoded (d : Decoded) (w : InsnWord) (s : State) : Result :=
  match d with
  | .instr i => exec i s
  | .reserved _ => raiseOut (.illegalInstruction w) s
  | .notOfThisSpec => .refused (.notOfThisSpec w)
  | .truncated => .refused (.notOfThisSpec w)

/-- A step of a running machine: fetch, decode, execute (R56). -/
def stepRunning (s : State) : Result :=
  match s.fetch with
  | .misaligned => raiseOut (.instructionAddressMisaligned s.pc) s
  | .accessFault => raiseOut (.instructionAccessFault s.pc) s
  | .storedByte => .refused (.fetchOfStoredByte s.pc)
  | .word w => execDecoded (decode w) w s

/-- One step. A machine in `Trapped` takes none (R300), nor does one whose `pc` is HALT_PC (R335). -/
def step (s : State) : Host.Outcome State Fault Refusal :=
  match s.trap with
  | some t => .fault (.trapped t)
  | none => if s.params.haltPc = some s.pc then .fault .halted else stepRunning s

/-- The state with an instruction of bits `w` loaded where the next step fetches, so that it is the next one run: its
four bytes at `pc`, not stored to by the run, the machine neither trapped nor halted here (log 4). -/
def State.withFetchWord (s : State) (nbits w : Nat) : State :=
  let t := s.loadWord s.pc (BitVec.ofNat 32 (w % 2 ^ nbits))
  { t with
    trap := none
    params := { t.params with haltPc := if t.params.haltPc = some t.pc then none else t.params.haltPc } }

end Sys2Proof.Machine
end

