-- ==== Sys2Proof/Safety.lean ====
section
/-! DEFINITION. What claims about this machine speak of: the invariant of its states, what an instruction leaves
alone, and the shapes of the effects of instructions. -/

namespace Sys2Proof.Machine

/-! ### The invariant -/

/-- What every step keeps. -/
structure State.Inv (s : State) : Prop where
  /-- `pc` is a multiple of 4 (R24) -/
  pcAligned : s.pc.extractLsb' 0 2 = 0#2
  /-- the storage of `x[0]` holds zero (R23) -/
  x0Zero : s.x[0] = 0#64
  /-- memory is in its canonical form -/
  memWf : s.mem.wf = true
  /-- every byte a store has written is listed in memory -/
  storedListed : ∀ a ∈ s.stored, (s.mem.read a).isSome = true
  /-- an exception is recorded with the `pc` that raised it (R311) -/
  trapPc : ∀ t, s.trap = some t → t.pc = s.pc

/-! ### What an instruction leaves alone -/

/-- From `s` to `t`: every floating-point register outside `fs`, every integer register outside `xs`, `frm`, the
parameters and the trap are as before. -/
def Unchanged (fs : List FReg) (xs : List XReg) (s t : State) : Prop :=
  (∀ r, r ∉ fs → t.getF r = s.getF r) ∧ (∀ r, r ∉ xs → t.getX r = s.getX r) ∧
    t.frm = s.frm ∧ t.params = s.params ∧ t.trap = s.trap

/-- From `s` to `t` every byte of memory reads as before, and no store was noted. -/
def MemUnchanged (s t : State) : Prop := (∀ a, t.readByte a = s.readByte a) ∧ t.stored = s.stored

/-- From `s` to `t` every byte outside the `n` bytes at `ea` reads as before. -/
def MemUnchangedOutside (ea : Word) (n : Nat) (s t : State) : Prop :=
  ∀ a, (∀ k, k < n → a ≠ byteAddr ea k) → t.readByte a = s.readByte a

/-- What a pair store of `lo` at `ea` and `hi` at `ea + 8` that raises an access fault leaves (R48, R308): every
register, flag and parameter and `pc` as before, and memory as before or with one of the two halves stored, a valid one,
and nothing else. -/
def AtMostHalfStored (s : State) (ea lo hi : Word) (t : State) : Prop :=
  t.f = s.f ∧ t.x = s.x ∧ t.pc = s.pc ∧ t.fflags = s.fflags ∧ t.frm = s.frm ∧ t.params = s.params ∧
    (MemUnchanged s t ∨
      (s.accessValid ea 8 = true ∧ (∀ k, k < 8 → t.readByte (byteAddr ea k) = lane 8 k lo) ∧
        MemUnchangedOutside ea 8 s t) ∨
      (s.accessValid (byteAddr ea 8) 8 = true ∧
        (∀ k, k < 8 → t.readByte (byteAddr (byteAddr ea 8) k) = lane 8 k hi) ∧
        MemUnchangedOutside (byteAddr ea 8) 8 s t))

/-! ### Shapes of effects

Each says that `exec i s` answers a next state, what that state holds, and that it differs from `s` in nothing
else. -/

/-- The instruction writes a value with the property `P` to `f[rd]` and accrues the flags `fl`. -/
def WritesF (i : Instr) (s : State) (rd : FReg) (P : Word → Prop) (fl : FpFlags) : Prop :=
  ∃ t, exec i s = .next t ∧ P (t.getF rd) ∧ t.fflags = s.fflags ||| fl ∧ t.pc = s.pc + 4#64 ∧
    Unchanged [rd] [] s t ∧ MemUnchanged s t

/-- The instruction writes values with the properties `P` and `Q` to `f[rd]` and `f[rd+1]` and accrues `fl`. -/
def WritesPair (i : Instr) (s : State) (rd : FReg) (P Q : Word → Prop) (fl : FpFlags) : Prop :=
  ∃ t, exec i s = .next t ∧ P (t.getF rd) ∧ Q (t.getF (highReg rd)) ∧ t.fflags = s.fflags ||| fl ∧
    t.pc = s.pc + 4#64 ∧ Unchanged [rd, highReg rd] [] s t ∧ MemUnchanged s t

/-- The instruction writes `v` to `x[rd]`, or nothing when `rd` is 0, and accrues `fl`. -/
def WritesX (i : Instr) (s : State) (rd : XReg) (v : Word) (fl : FpFlags) : Prop :=
  ∃ t, exec i s = .next t ∧ t.getX rd = (if rd = 0#5 then 0#64 else v) ∧ t.fflags = s.fflags ||| fl ∧
    t.pc = s.pc + 4#64 ∧ Unchanged [] [rd] s t ∧ MemUnchanged s t

/-- The instruction stores the `n` bytes `b 0` to `b (n - 1)` at `ea` and changes nothing else. -/
def StoresBytes (i : Instr) (s : State) (ea : Word) (n : Nat) (b : Nat → Byte) : Prop :=
  ∃ t, exec i s = .next t ∧ (∀ k, k < n → t.readByte (byteAddr ea k) = b k) ∧ MemUnchangedOutside ea n s t ∧
    t.fflags = s.fflags ∧ t.pc = s.pc + 4#64 ∧ Unchanged [] [] s t

/-- The instruction raises `e` (R11, R300): the next state is `s` with `Trapped(e, pc)` recorded. -/
def Raises (i : Instr) (s : State) (e : Cause) : Prop :=
  exec i s = .next { s with trap := some { cause := e, pc := s.pc } }

/-- The instruction, a pair store of `lo` at `ea` and `hi` at `ea + 8`, raises StoreAccessFault(ea) (R108). -/
def RaisesInPairStore (i : Instr) (s : State) (ea lo hi : Word) : Prop :=
  ∃ t, exec i s = .next t ∧ t.trap = some { cause := .storeAccessFault ea, pc := s.pc } ∧
    AtMostHalfStored s ea lo hi t

/-- The instruction raises `IllegalInstruction` with its own 32 bits (R302). -/
def RaisesIllegal (i : Instr) (s : State) : Prop := Raises i s (.illegalInstruction (encode i))

/-! ### Lane-by-lane effects -/

/-- `n` lanes of format `fmt`, each the operation of the same lanes of `f[rs1]` and `f[rs2]`, written to `f[rd]`; the
flags of all lanes accrue (R120, R121). -/
def LaneOp2 (i : Instr) (fmt : Fmt) (n : Nat) (op : BitVec fmt.width → BitVec fmt.width → FpResult fmt)
    (rd rs1 rs2 : FReg) (s : State) : Prop :=
  WritesF i s rd
    (fun v => ∀ k, k < n → fmtLane fmt k v = (op (fmtLane fmt k (s.getF rs1)) (fmtLane fmt k (s.getF rs2))).1)
    (orFlags n fun k => (op (fmtLane fmt k (s.getF rs1)) (fmtLane fmt k (s.getF rs2))).2)

/-- As `LaneOp2`, of one source register (R230). -/
def LaneOp1 (i : Instr) (fmt : Fmt) (n : Nat) (op : BitVec fmt.width → FpResult fmt) (rd rs1 : FReg) (s : State) :
    Prop :=
  WritesF i s rd (fun v => ∀ k, k < n → fmtLane fmt k v = (op (fmtLane fmt k (s.getF rs1))).1)
    (orFlags n fun k => (op (fmtLane fmt k (s.getF rs1))).2)

/-- As `LaneOp2`, of three source registers (R251). -/
def LaneOp3 (i : Instr) (fmt : Fmt) (n : Nat)
    (op : BitVec fmt.width → BitVec fmt.width → BitVec fmt.width → FpResult fmt) (rd rs1 rs2 rs3 : FReg) (s : State) :
    Prop :=
  WritesF i s rd
    (fun v => ∀ k, k < n →
      fmtLane fmt k v = (op (fmtLane fmt k (s.getF rs1)) (fmtLane fmt k (s.getF rs2)) (fmtLane fmt k (s.getF rs3))).1)
    (orFlags n fun k =>
      (op (fmtLane fmt k (s.getF rs1)) (fmtLane fmt k (s.getF rs2)) (fmtLane fmt k (s.getF rs3))).2)

/-- The pair form of `LaneOp2`: `n` lanes in each half of the pairs (R136). -/
def PairOp2 (i : Instr) (fmt : Fmt) (n : Nat) (op : BitVec fmt.width → BitVec fmt.width → FpResult fmt)
    (rd rs1 rs2 : FReg) (s : State) : Prop :=
  WritesPair i s rd
    (fun v => ∀ k, k < n → fmtLane fmt k v = (op (fmtLane fmt k (s.getF rs1)) (fmtLane fmt k (s.getF rs2))).1)
    (fun v => ∀ k, k < n → fmtLane fmt k v =
      (op (fmtLane fmt k (s.getF (highReg rs1))) (fmtLane fmt k (s.getF (highReg rs2)))).1)
    ((orFlags n fun k => (op (fmtLane fmt k (s.getF rs1)) (fmtLane fmt k (s.getF rs2))).2) |||
      orFlags n fun k => (op (fmtLane fmt k (s.getF (highReg rs1))) (fmtLane fmt k (s.getF (highReg rs2)))).2)

/-- The pair form of `LaneOp1` (R232). -/
def PairOp1 (i : Instr) (fmt : Fmt) (n : Nat) (op : BitVec fmt.width → FpResult fmt) (rd rs1 : FReg) (s : State) :
    Prop :=
  WritesPair i s rd (fun v => ∀ k, k < n → fmtLane fmt k v = (op (fmtLane fmt k (s.getF rs1))).1)
    (fun v => ∀ k, k < n → fmtLane fmt k v = (op (fmtLane fmt k (s.getF (highReg rs1)))).1)
    ((orFlags n fun k => (op (fmtLane fmt k (s.getF rs1))).2) |||
      orFlags n fun k => (op (fmtLane fmt k (s.getF (highReg rs1)))).2)

/-- One element of format `fmt` written to `f[rd]` with every bit above it set (R30): `r` is the element with its
flags. -/
def BoxesScalar (i : Instr) (fmt : Fmt) (r : FpResult fmt) (rd : FReg) (s : State) : Prop :=
  WritesF i s rd (fun v => fmtLane fmt 0 v = r.1 ∧ ∀ b, fmt.width ≤ b → b < 64 → v.getLsbD b = true) r.2

end Sys2Proof.Machine
end

