-- ==== Sys2Proof/Certificates/Slice0/Obligations.lean ====
section
/-! DEFINITION. The statements for the provers. The shapes of effects they use (`WritesF`, `WritesX`, `StoresBytes`,
`LaneOp2`, `Raises` and the rest) are in Sys2Proof/Safety.lean: each says that `exec` answers a next state, what that
state holds, and that everything else is unchanged. -/

open Sys2Proof Sys2Proof.Machine

/-! ### Encoding -/

/-- Decoding the encoding of an instruction gives it back, for every instruction in canonical form (a raw rm field
that would name the X form is not canonical: the X constructor is). -/
def Obligations.DecodeEncode : Prop :=
  ∀ i : Instr, i.canonical = true → decode (encode i) = .instr i

/-- An instruction word has one meaning and loses no bit: what a word decodes to is canonical and encodes to that
word. -/
def Obligations.EncodeDecode : Prop :=
  ∀ (w : InsnWord) (i : Instr), decode w = .instr i → encode i = w ∧ i.canonical = true

/-- Words of the spec's own examples decode to the instructions they stand for. -/
def Obligations.DecodeExampleWords : Prop :=
  decode 0x00659507#32 = .instr (.flh 10#5 11#5 6#12) ∧
  decode 0xFEA5AC27#32 = .instr (.fsw 11#5 0xFF8#12 10#5) ∧
  decode 0x00B57653#32 = .instr (.paddS 12#5 10#5 11#5 0b111#3) ∧
  decode 0x00E56653#32 = .instr (.paddxS 12#5 10#5 14#5 .rne2) ∧
  decode 0x20B50653#32 = .instr (.psgnjS 12#5 10#5 11#5) ∧
  decode 0xA0B50653#32 = .instr (.fleS 12#5 10#5 11#5) ∧
  decode 0x28B50653#32 = .instr (.pminS 12#5 10#5 11#5) ∧
  decode 0x22B54653#32 = .instr (.fpkbbS 12#5 10#5 11#5) ∧
  decode 0x40257653#32 = .instr (.pcvtSH 12#5 10#5 0b111#3) ∧
  decode 0x5C057653#32 = .instr (.psqrtH 12#5 10#5 0b111#3) ∧
  decode 0xF0151653#32 = .instr (.prcpaS 12#5 10#5) ∧
  decode 0x68B57643#32 = .instr (.pmaddS 12#5 10#5 11#5 13#5 0b111#3) ∧
  decode 0x61B5161B#32 = .instr (.pfshufW 12#5 10#5 0x1B#8) ∧
  decode 0x00008067#32 = .instr (.jalr 0#5 1#5 0#12)

/-! ### One step -/

/-- When the four bytes at `pc` decode to an instruction, a step of a running machine is `exec` of it: nothing is done
before or after. -/
def Obligations.StepRunsDecoded : Prop :=
  ∀ (s : State) (i : Instr), s.trap = none → s.params.haltPc ≠ some s.pc → s.pc.extractLsb' 0 2 = 0#2 →
    s.accessValid s.pc 4 = true → s.fetchUnstored = true → decodeBytes s.fetchBytes = .instr i → step s = exec i s

/-- A fetch from a `pc` that is no multiple of 4 raises InstructionAddressMisaligned, whatever else is wrong with the
fetch; a fetch from an aligned `pc` that touches a byte where Mem.valid is false raises InstructionAccessFault. -/
def Obligations.FetchTraps : Prop :=
  ∀ s : State, s.trap = none → s.params.haltPc ≠ some s.pc →
    (s.pc.extractLsb' 0 2 ≠ 0#2 →
      step s = .next { s with trap := some { cause := .instructionAddressMisaligned s.pc, pc := s.pc } }) ∧
    (∀ k, k < 4 → s.pc.extractLsb' 0 2 = 0#2 → memValid s.params (byteAddr s.pc k) = false →
      step s = .next { s with trap := some { cause := .instructionAccessFault s.pc, pc := s.pc } })

/-- A word that is reserved raises IllegalInstruction with its 32 bits; a word outside the spec is refused. Stated of
the fetched word. A fetch that touches a byte which a store of the run has written is refused, whatever the word: R54 has
the model refuse it, and that the model notices it by the list of the bytes stored is log 12. -/
def Obligations.StepOnOtherWords : Prop :=
  ∀ s : State, s.trap = none → s.params.haltPc ≠ some s.pc → s.pc.extractLsb' 0 2 = 0#2 →
    s.accessValid s.pc 4 = true →
    (s.fetchUnstored = true →
      (∀ why, decode s.fetchWord = .reserved why →
        step s = .next { s with trap := some { cause := .illegalInstruction s.fetchWord, pc := s.pc } }) ∧
      (decode s.fetchWord = .notOfThisSpec → step s = .refused (.notOfThisSpec s.fetchWord))) ∧
    (∀ k, k < 4 → (byteAddr s.pc k).toNat ∈ s.stored → step s = .refused (.fetchOfStoredByte s.pc)) ∧
    ((∀ k, k < 4 → (byteAddr s.pc k).toNat ∉ s.stored) → s.fetchUnstored = true)

/-- LOAD-FP and STORE-FP words with a width code the V extension took, and words of this spec's OP-FP functions and of
the PMADD family with type bits 11, decode as reserved. That the imported compares and moves are among the functions R77
means is the model's reading (log 14). -/
def Obligations.ReservedWords : Prop :=
  ∀ F : Fields,
    ((F.op = 0b0000111#7 ∨ F.op = 0b0100111#7) → (F.f3 = 0b000#3 ∨ F.f3 = 0b101#3 ∨ F.f3 = 0b110#3 ∨ F.f3 = 0b111#3) →
      decode F.word = .reserved .loadStoreWidth) ∧
    (F.op = 0b1010011#7 →
      F.funct5 ∈ [0b00000#5, 0b00001#5, 0b00010#5, 0b00011#5, 0b00100#5, 0b00101#5, 0b01000#5, 0b01011#5, 0b10100#5,
        0b11100#5, 0b11110#5] →
      F.fmt = 0b11#2 → decode F.word = .reserved .typeBits) ∧
    (F.op ∈ [0b1000011#7, 0b1000111#7, 0b1001011#7, 0b1001111#7] → F.fmt = 0b11#2 →
      decode F.word = .reserved .typeBits)

/-- The codes inside the function groups of this spec that it does not assign decode as reserved. A word outside the
spec is none of its words: one of an opcode the spec does not use, and one of an opcode it shares with other extensions
that is none of the functions it lists (FMIN.D and FMAX.D, the FMADD.D family, the OP-FP functions of the base extensions,
other funct3 and funct7 codes of the integer opcodes). Of funct5 11110 these are the codes R238 reserves, but for funct3
000 with rs2 00000, which the model reads as moves of the base extensions; that the unlisted codes of the compares and of
the moves to integer registers are outside the spec is its reading too (log 14, log 15). -/
def Obligations.UnassignedWords : Prop :=
  ∀ F : Fields,
    let reserved := ∃ why, decode F.word = .reserved why
    let outside := decode F.word = .notOfThisSpec
    (F.op = 0b1010011#7 →
      (F.funct5 = 0b00100#5 → F.f3 = 0b011#3 → reserved) ∧
      (F.funct5 = 0b00100#5 → F.fmt = 0b10#2 → F.f3.getLsbD 2 = true → reserved) ∧
      (F.funct5 = 0b00101#5 → F.f3 ≠ 0b000#3 → F.f3 ≠ 0b001#3 → reserved) ∧
      (F.funct5 = 0b01000#5 →
        (F.fmt, F.rs2) ∉ [(0b00#2, 0b00001#5), (0b00#2, 0b00010#5), (0b00#2, 0b00110#5), (0b00#2, 0b01010#5),
          (0b00#2, 0b01110#5), (0b01#2, 0b00000#5), (0b01#2, 0b00010#5), (0b01#2, 0b00110#5), (0b10#2, 0b00000#5),
          (0b10#2, 0b00001#5), (0b10#2, 0b01000#5), (0b10#2, 0b01001#5)] → reserved) ∧
      (F.funct5 = 0b01011#5 → F.rs2 ≠ 0b00000#5 → reserved) ∧
      (F.funct5 = 0b11110#5 →
        (F.f3 = 0b000#3 → F.rs2 ≠ 0b00000#5 → reserved) ∧
        (F.f3 = 0b001#3 → F.rs2 ≠ 0b00001#5 → F.rs2 ≠ 0b00010#5 → reserved) ∧
        (F.f3 ≠ 0b000#3 → F.f3 ≠ 0b001#3 → reserved))) ∧
    (F.op = 0b1110111#7 → (F.f3 = 0b001#3 ∨ F.f3 = 0b010#3) →
      F.f7 ∉ [0b0000111#7, 0b0001111#7, 0b0010111#7, 0b0011111#7] → reserved) ∧
    (F.op ∉ [0b0000111#7, 0b0100111#7, 0b1010011#7, 0b1000011#7, 0b1000111#7, 0b1001011#7, 0b1001111#7, 0b0110011#7,
        0b0011011#7, 0b1110111#7, 0b0010011#7, 0b1100111#7] → outside) ∧
    (F.op = 0b1010011#7 →
      (F.funct5 = 0b00101#5 → F.fmt = 0b01#2 → (F.f3 = 0b000#3 ∨ F.f3 = 0b001#3) → outside) ∧
      (F.funct5 = 0b10100#5 → F.fmt ≠ 0b11#2 → F.f3 ∉ [0b000#3, 0b001#3, 0b010#3] → outside) ∧
      (F.funct5 = 0b11100#5 → F.fmt ≠ 0b11#2 → (F.fmt, F.rs2, F.f3) ≠ (0b01#2, 0b00000#5, 0b000#3) → outside) ∧
      (F.funct5 = 0b11110#5 → F.f3 = 0b000#3 → F.rs2 = 0b00000#5 → (F.fmt = 0b00#2 ∨ F.fmt = 0b10#2) → outside) ∧
      (F.funct5 ∉ [0b00000#5, 0b00001#5, 0b00010#5, 0b00011#5, 0b00100#5, 0b00101#5, 0b01000#5, 0b01011#5, 0b10100#5,
        0b11100#5, 0b11110#5] → outside)) ∧
    (F.op ∈ [0b1000011#7, 0b1000111#7, 0b1001011#7, 0b1001111#7] → F.fmt = 0b01#2 → outside) ∧
    (F.op = 0b1110111#7 → F.f3 ≠ 0b001#3 → F.f3 ≠ 0b010#3 → outside) ∧
    (F.op = 0b0110011#7 →
      (F.f7, F.f3) ∉ [(0b0000100#7, 0b100#3), (0b0100100#7, 0b100#3), (0b0100000#7, 0b000#3)] → outside) ∧
    (F.op = 0b0011011#7 →
      (F.f7.extractLsb' 3 4, F.f3) ∉ [(0b0100#4, 0b001#3), (0b0110#4, 0b001#3)] → outside) ∧
    (F.op = 0b0010011#7 ∨ F.op = 0b1100111#7 → F.f3 ≠ 0b000#3 → outside)

/-- A machine that has trapped takes no step, and a machine whose `pc` is HALT_PC has ended its run. -/
def Obligations.EndOfRun : Prop :=
  (∀ (s : State) (e : Trap), s.trap = some e → step s = .fault (.trapped e)) ∧
  (∀ s : State, s.trap = none → s.params.haltPc = some s.pc → step s = .fault .halted)

/-- A word loaded at an aligned and valid `pc` is the word the next step executes, whatever the state held there. -/
def Obligations.LoadedWordRuns : Prop :=
  ∀ (s : State) (w : InsnWord), s.pc.extractLsb' 0 2 = 0#2 → s.accessValid s.pc 4 = true →
    (s.withFetchWord 32 w.toNat).fetchWord = w ∧
    step (s.withFetchWord 32 w.toNat) = execDecoded (decode w) w (s.withFetchWord 32 w.toNat)

/-! ### The machine as a whole -/

/-- The state after reset meets the invariant. -/
def Obligations.ResetInv : Prop := State.reset.Inv

/-- Every step keeps the invariant, from every state that meets it. -/
def Obligations.StepKeepsInv : Prop :=
  ∀ s t : State, s.Inv → step s = .next t → t.Inv

/-- What the spec states of reset: `pc` a multiple of 4 and at RESET_PC, `x[0]` zero, no byte of memory given a value.
The other registers' zero is the model's choice (log 2, log 3). -/
def Obligations.ResetState : Prop :=
  ∀ p : Params, ∀ a : Word,
    (State.resetWith p a).pc = a ∧ (State.resetWith p a).getX 0#5 = 0#64 ∧ (State.resetWith p a).params = p ∧
    (∀ b : Word, (State.resetWith p a).readByte b = Config.unloadedByte b.toNat) ∧
    (State.resetWith p a).trap = none ∧ Config.resetPc.extractLsb' 0 2 = 0#2

/-- No step clears an exception flag, writes `frm` or changes a parameter. In `fcsr` as a value `fflags` lies in bits
4:0 and `frm` in 7:5, and bits 63:8 read as zero; a write of `fcsr`, which only the harness makes, sets the two fields,
ignores bits 63:8 and changes nothing else. -/
def Obligations.ControlStateUnderSteps : Prop :=
  (∀ s t : State, step s = .next t →
    (∀ b, s.fflags.getLsbD b = true → t.fflags.getLsbD b = true) ∧ t.frm = s.frm ∧ t.params = s.params) ∧
  (∀ s : State, (∀ b, b < 5 → s.fcsr.getLsbD b = s.fflags.getLsbD b) ∧
    (∀ b, b < 3 → s.fcsr.getLsbD (5 + b) = s.frm.getLsbD b) ∧ (∀ b, 8 ≤ b → s.fcsr.getLsbD b = false)) ∧
  (∀ (s : State) (v : Word), (∀ b, b < 5 → (s.withFcsr v).fflags.getLsbD b = v.getLsbD b) ∧
    (∀ b, b < 3 → (s.withFcsr v).frm.getLsbD b = v.getLsbD (5 + b)) ∧
    (∀ b, (s.withFcsr v).fcsr.getLsbD b = (decide (b < 8) && v.getLsbD b)) ∧
    { s.withFcsr v with fflags := s.fflags, frm := s.frm } = s)

/-- An instruction that raises an exception has changed nothing but the trap record, which holds its own address; the
machine then takes no further step. The one exception is R48's and R308's: an FSX that raises its access fault may have
stored a half of its pair that the platform backs, and nothing else. That either half may be the one (R48 leaves the
order open), and that it is a free value whether it has been stored, is the model's reading (log 13). -/
def Obligations.TrapsArePrecise : Prop :=
  ∀ (i : Instr) (s t : State) (e : Trap), s.trap = none → exec i s = .next t → t.trap = some e →
    e.pc = s.pc ∧ step t = .fault (.trapped e) ∧
    ((∀ rs1 imm rs2, ¬(i = .fsx rs1 imm rs2 ∧ e.cause = .storeAccessFault (s.ea rs1 imm))) →
      t = { s with trap := some e }) ∧
    (∀ rs1 imm rs2, i = .fsx rs1 imm rs2 → e.cause = .storeAccessFault (s.ea rs1 imm) →
      AtMostHalfStored s (s.ea rs1 imm) (s.getF rs2) (s.getF (highReg rs2)) t)

/-- An instruction that raises nothing and is no jump ends with `pc + 4`, modulo 2^64. -/
def Obligations.PcAdvances : Prop :=
  ∀ (i : Instr) (s t : State), s.trap = none → exec i s = .next t → t.trap = none →
    (∀ rd rs1 imm, i ≠ .jalr rd rs1 imm) → t.pc = s.pc + 4#64

/-- The four stores are the only instructions that change a byte of memory. -/
def Obligations.OnlyStoresWriteMemory : Prop :=
  ∀ (i : Instr) (s t : State), exec i s = .next t →
    (∀ rs1 imm rs2, i ≠ .fsh rs1 imm rs2 ∧ i ≠ .fsw rs1 imm rs2 ∧ i ≠ .fsd rs1 imm rs2 ∧ i ≠ .fsx rs1 imm rs2) →
    MemUnchanged s t

/-- No instruction stops the machine: `exec` answers a next state, except a store one of whose bytes is in the declared
program text, which may be refused (R54). The declared text is a parameter (log 12). -/
def Obligations.ExecGoesOn : Prop :=
  ∀ (i : Instr) (s : State), (∃ t, exec i s = .next t) ∨
    (∃ rs1 imm rs2 n, ((i = .fsh rs1 imm rs2 ∧ n = 2) ∨ (i = .fsw rs1 imm rs2 ∧ n = 4) ∨
        (i = .fsd rs1 imm rs2 ∧ n = 8) ∨ (i = .fsx rs1 imm rs2 ∧ n = 16)) ∧
      exec i s = .refused (.storeToText (s.ea rs1 imm)) ∧
      ∃ k, k < n ∧ inText s.params (byteAddr (s.ea rs1 imm) k) = true)

/-! ### Memory -/

/-- A byte that is written reads back, every other byte is untouched, and the canonical form is kept, under which
memories that read the same are equal. -/
def Obligations.MemoryAlgebra : Prop :=
  (∀ (s : State) (ea v : Word) (n : Nat), n ≤ 8 → s.mem.wf = true →
    (s.memWrite ea v n).mem.wf = true ∧ MemUnchangedOutside ea n s (s.memWrite ea v n) ∧
    ∀ k, k < n → lane 8 k ((s.memWrite ea v n).memRead ea n) = lane 8 k v) ∧
  (∀ m m' : Memory, m.wf = true → m'.wf = true → (∀ a, m.read a = m'.read a) → m = m')

/-- FLH, FLW and FLD load 2, 4 and 8 bytes, little-endian; FLH and FLW fill the high bits with ones. -/
def Obligations.ScalarLoads : Prop :=
  ∀ (s : State) (rd : FReg) (rs1 : XReg) (imm : BitVec 12),
    let ea := s.ea rs1 imm
    let b := fun k => s.readByte (byteAddr ea k)
    ((s.params.misalignedOk = true ∨ ea.toNat % 2 = 0) → s.accessValid ea 2 = true →
      WritesF (.flh rd rs1 imm) s rd (fun v => v = BitVec.allOnes 48 ++ (b 1 ++ b 0)) 0#5) ∧
    ((s.params.misalignedOk = true ∨ ea.toNat % 4 = 0) → s.accessValid ea 4 = true →
      WritesF (.flw rd rs1 imm) s rd (fun v => v = BitVec.allOnes 32 ++ (b 3 ++ b 2 ++ b 1 ++ b 0)) 0#5) ∧
    ((s.params.misalignedOk = true ∨ ea.toNat % 8 = 0) → s.accessValid ea 8 = true →
      WritesF (.fld rd rs1 imm) s rd (fun v => ∀ k, k < 8 → lane 8 k v = b k) 0#5)

/-- FLX loads 16 bytes into an even/odd pair, the even register from the lower address. -/
def Obligations.PairLoad : Prop :=
  ∀ (s : State) (rd : FReg) (rs1 : XReg) (imm : BitVec 12),
    let ea := s.ea rs1 imm
    s.params.hasFlx = true → rd.getLsbD 0 = false → ea.extractLsb' 0 3 = 0#3 → s.accessValid ea 16 = true →
      WritesPair (.flx rd rs1 imm) s rd (fun v => ∀ k, k < 8 → lane 8 k v = s.readByte (byteAddr ea k))
        (fun v => ∀ k, k < 8 → lane 8 k v = s.readByte (byteAddr ea (8 + k))) 0#5

/-- FSH, FSW and FSD store the low 2, 4 and 8 bytes of a register, little-endian, and change nothing else. -/
def Obligations.ScalarStores : Prop :=
  ∀ (s : State) (rs1 : XReg) (imm : BitVec 12) (rs2 : FReg),
    let ea := s.ea rs1 imm
    ((s.params.misalignedOk = true ∨ ea.toNat % 2 = 0) → s.accessValid ea 2 = true → s.avoidsText ea 2 = true →
      StoresBytes (.fsh rs1 imm rs2) s ea 2 fun k => lane 8 k (s.getF rs2)) ∧
    ((s.params.misalignedOk = true ∨ ea.toNat % 4 = 0) → s.accessValid ea 4 = true → s.avoidsText ea 4 = true →
      StoresBytes (.fsw rs1 imm rs2) s ea 4 fun k => lane 8 k (s.getF rs2)) ∧
    ((s.params.misalignedOk = true ∨ ea.toNat % 8 = 0) → s.accessValid ea 8 = true → s.avoidsText ea 8 = true →
      StoresBytes (.fsd rs1 imm rs2) s ea 8 fun k => lane 8 k (s.getF rs2))

/-- FSX stores a pair as two doublewords, the even register at the lower address, and changes nothing else. -/
def Obligations.PairStore : Prop :=
  ∀ (s : State) (rs1 : XReg) (imm : BitVec 12) (rs2 : FReg),
    let ea := s.ea rs1 imm
    s.params.hasFsx = true → rs2.getLsbD 0 = false → ea.extractLsb' 0 3 = 0#3 → s.accessValid ea 16 = true →
    s.avoidsText ea 16 = true →
      StoresBytes (.fsx rs1 imm rs2) s ea 16
        fun k => if k < 8 then lane 8 k (s.getF rs2) else lane 8 (k - 8) (s.getF (highReg rs2))

/-- FLX and FSX need an effective address that is a multiple of 8, whatever MISALIGNED_OK is, and no more than that: at
any other address they raise the misaligned exception with it and nothing is loaded or stored; at a multiple of 8, be it
no multiple of 16, they complete. -/
def Obligations.PairAlignment : Prop :=
  ∀ (s : State) (r : FReg) (rs1 : XReg) (imm : BitVec 12),
    let ea := s.ea rs1 imm
    r.getLsbD 0 = false →
      (s.params.hasFlx = true → ea.extractLsb' 0 3 ≠ 0#3 → Raises (.flx r rs1 imm) s (.loadAddressMisaligned ea)) ∧
      (s.params.hasFsx = true → ea.extractLsb' 0 3 ≠ 0#3 → Raises (.fsx rs1 imm r) s (.storeAddressMisaligned ea)) ∧
      (s.params.hasFlx = true → ea.extractLsb' 0 3 = 0#3 → s.accessValid ea 16 = true →
        ∃ t, exec (.flx r rs1 imm) s = .next t ∧ t.trap = s.trap) ∧
      (s.params.hasFsx = true → ea.extractLsb' 0 3 = 0#3 → s.accessValid ea 16 = true → s.avoidsText ea 16 = true →
        ∃ t, exec (.fsx rs1 imm r) s = .next t ∧ t.trap = s.trap)

/-- With MISALIGNED_OK false, the six other accesses raise the misaligned exception at an address that is no multiple
of their size. -/
def Obligations.NaturalAlignment : Prop :=
  ∀ (s : State) (r : FReg) (rs1 : XReg) (imm : BitVec 12), s.params.misalignedOk = false →
    let ea := s.ea rs1 imm
    (ea.toNat % 2 ≠ 0 → Raises (.flh r rs1 imm) s (.loadAddressMisaligned ea) ∧
      Raises (.fsh rs1 imm r) s (.storeAddressMisaligned ea)) ∧
    (ea.toNat % 4 ≠ 0 → Raises (.flw r rs1 imm) s (.loadAddressMisaligned ea) ∧
      Raises (.fsw rs1 imm r) s (.storeAddressMisaligned ea)) ∧
    (ea.toNat % 8 ≠ 0 → Raises (.fld r rs1 imm) s (.loadAddressMisaligned ea) ∧
      Raises (.fsd rs1 imm r) s (.storeAddressMisaligned ea))

/-- An aligned access that touches a byte where Mem.valid is false raises the access fault with the effective
address, not that of the byte. A load and a store of one register change nothing else. A pair store may have stored the
half that is valid (R48, R308): memory is as before or has that half, whichever of the two it is; this reading of R48 and
R108 is the model's (log 13). -/
def Obligations.AccessFaults : Prop :=
  ∀ (s : State) (r : FReg) (rs1 : XReg) (imm : BitVec 12) (k : Nat),
    let ea := s.ea rs1 imm
    memValid s.params (byteAddr ea k) = false →
      (k < 2 → (s.params.misalignedOk = true ∨ ea.toNat % 2 = 0) →
        Raises (.flh r rs1 imm) s (.loadAccessFault ea) ∧ Raises (.fsh rs1 imm r) s (.storeAccessFault ea)) ∧
      (k < 4 → (s.params.misalignedOk = true ∨ ea.toNat % 4 = 0) →
        Raises (.flw r rs1 imm) s (.loadAccessFault ea) ∧ Raises (.fsw rs1 imm r) s (.storeAccessFault ea)) ∧
      (k < 8 → (s.params.misalignedOk = true ∨ ea.toNat % 8 = 0) →
        Raises (.fld r rs1 imm) s (.loadAccessFault ea) ∧ Raises (.fsd rs1 imm r) s (.storeAccessFault ea)) ∧
      (k < 16 → ea.extractLsb' 0 3 = 0#3 → r.getLsbD 0 = false →
        (s.params.hasFlx = true → Raises (.flx r rs1 imm) s (.loadAccessFault ea)) ∧
        (s.params.hasFsx = true →
          RaisesInPairStore (.fsx rs1 imm r) s ea (s.getF r) (s.getF (highReg r))))

/-- A store whose bytes are all valid and one of which is in the declared program text is refused, at any address it may
be made to. -/
def Obligations.StoresToTextAreRefused : Prop :=
  ∀ (s : State) (r : FReg) (rs1 : XReg) (imm : BitVec 12) (k : Nat),
    let ea := s.ea rs1 imm
    inText s.params (byteAddr ea k) = true →
      (k < 2 → (s.params.misalignedOk = true ∨ ea.toNat % 2 = 0) → s.accessValid ea 2 = true →
        exec (.fsh rs1 imm r) s = .refused (.storeToText ea)) ∧
      (k < 4 → (s.params.misalignedOk = true ∨ ea.toNat % 4 = 0) → s.accessValid ea 4 = true →
        exec (.fsw rs1 imm r) s = .refused (.storeToText ea)) ∧
      (k < 8 → (s.params.misalignedOk = true ∨ ea.toNat % 8 = 0) → s.accessValid ea 8 = true →
        exec (.fsd rs1 imm r) s = .refused (.storeToText ea)) ∧
      (k < 16 → ea.extractLsb' 0 3 = 0#3 → s.accessValid ea 16 = true → r.getLsbD 0 = false →
        s.params.hasFsx = true → exec (.fsx rs1 imm r) s = .refused (.storeToText ea))

/-- A register stored by FSD and loaded by FLD through the same address comes back with all 64 bits, into any
register. -/
def Obligations.StoreLoadRoundTrip : Prop :=
  ∀ (s t : State) (rd rs2 : FReg) (rs1 : XReg) (imm : BitVec 12),
    exec (.fsd rs1 imm rs2) s = .next t → t.trap = s.trap → s.trap = none →
      WritesF (.fld rd rs1 imm) t rd (fun v => v = s.getF rs2) 0#5

/-- FLX leaves in the pair what FLD of the even and FLD of the odd register leave, and FSX leaves in memory what the
two FSDs leave. -/
def Obligations.PairAccessIsTwoAccesses : Prop :=
  ∀ (s t : State) (r : FReg) (rs1 : XReg) (imm imm' : BitVec 12), s.trap = none → t.trap = none →
    imm'.signExtend 64 = imm.signExtend 64 + 8#64 →
    (exec (.flx r rs1 imm) s = .next t →
      ∃ u v, exec (.fld r rs1 imm) s = .next u ∧ exec (.fld (highReg r) rs1 imm') u = .next v ∧
        v.f = t.f ∧ v.x = t.x ∧ v.mem = t.mem ∧ v.fflags = t.fflags) ∧
    (exec (.fsx rs1 imm r) s = .next t →
      ∃ u v, exec (.fsd rs1 imm r) s = .next u ∧ exec (.fsd rs1 imm' (highReg r)) u = .next v ∧
        v.f = t.f ∧ v.x = t.x ∧ v.mem = t.mem ∧ v.fflags = t.fflags)

/-! ### Rounding modes -/

/-- What each code of the rm field selects, DYN reading `frm`. -/
def Obligations.RoundingModes : Prop :=
  ∀ s : State,
    s.rmMeaning 0b000#3 = .narrow .rne ∧ s.rmMeaning 0b001#3 = .narrow .rtz ∧ s.rmMeaning 0b010#3 = .narrow .rdn ∧
    s.rmMeaning 0b011#3 = .narrow .rup ∧ s.rmMeaning 0b100#3 = .narrow .rmm ∧ s.rmMeaning 0b101#3 = .wide .rtz2 ∧
    s.rmMeaning 0b110#3 = .wide .rne2 ∧
    (s.frm = 0b000#3 → s.rmMeaning 0b111#3 = .narrow .rne) ∧ (s.frm = 0b001#3 → s.rmMeaning 0b111#3 = .narrow .rtz) ∧
    (s.frm = 0b010#3 → s.rmMeaning 0b111#3 = .narrow .rdn) ∧ (s.frm = 0b011#3 → s.rmMeaning 0b111#3 = .narrow .rup) ∧
    (s.frm = 0b100#3 → s.rmMeaning 0b111#3 = .narrow .rmm) ∧
    (s.frm = 0b101#3 ∨ s.frm = 0b110#3 ∨ s.frm = 0b111#3 → s.rmMeaning 0b111#3 = .illegal) ∧
    XRm.rounding .rtz2 = .rtz ∧ XRm.rounding .rne2 = .rne

/-- A rounding-mode field that is DYN while `frm` holds 101, 110 or 111, and a 2x code on an instruction without an X
form, raise IllegalInstruction: in every instruction with such a field. -/
def Obligations.IllegalRoundingModes : Prop :=
  ∀ (i : Instr) (s : State) (rm : BitVec 3) (hasX : Bool), i.rmField = some (rm, hasX) →
    (rm = 0b111#3 → (s.frm = 0b101#3 ∨ s.frm = 0b110#3 ∨ s.frm = 0b111#3) → RaisesIllegal i s) ∧
    ((rm = 0b101#3 ∨ rm = 0b110#3) → hasX = false → RaisesIllegal i s)

/-- A 2x rounding code turns a 64-bit word into its X form: the two spellings are one word and do the same. -/
def Obligations.WideRmSelectsXForm : Prop :=
  ∀ (s : State) (rd rs1 rs2 : FReg) (x : XRm),
    exec (.paddS rd rs1 rs2 x.bits) s = exec (.paddxS rd rs1 rs2 x) s ∧
    exec (.psubS rd rs1 rs2 x.bits) s = exec (.psubxS rd rs1 rs2 x) s ∧
    exec (.pmulS rd rs1 rs2 x.bits) s = exec (.pmulxS rd rs1 rs2 x) s ∧
    exec (.pdivS rd rs1 rs2 x.bits) s = exec (.pdivxS rd rs1 rs2 x) s ∧
    exec (.faddD rd rs1 rs2 x.bits) s = exec (.paddxD rd rs1 rs2 x) s ∧
    exec (.fsubD rd rs1 rs2 x.bits) s = exec (.psubxD rd rs1 rs2 x) s ∧
    exec (.fmulD rd rs1 rs2 x.bits) s = exec (.pmulxD rd rs1 rs2 x) s ∧
    exec (.fdivD rd rs1 rs2 x.bits) s = exec (.pdivxD rd rs1 rs2 x) s ∧
    exec (.paddH rd rs1 rs2 x.bits) s = exec (.paddxH rd rs1 rs2 x) s ∧
    exec (.psubH rd rs1 rs2 x.bits) s = exec (.psubxH rd rs1 rs2 x) s ∧
    exec (.pmulH rd rs1 rs2 x.bits) s = exec (.pmulxH rd rs1 rs2 x) s ∧
    exec (.pdivH rd rs1 rs2 x.bits) s = exec (.pdivxH rd rs1 rs2 x) s ∧
    exec (.pcvtSH rd rs1 x.bits) s = exec (.pcvtxSH rd rs1 x) s ∧
    exec (.pcvtHS rd rs1 x.bits) s = exec (.pcvtxHS rd rs1 x) s ∧
    exec (.pcvtSBf16 rd rs1 x.bits) s = exec (.pcvtxSBf16 rd rs1 x) s ∧
    exec (.pcvtBf16S rd rs1 x.bits) s = exec (.pcvtxBf16S rd rs1 x) s ∧
    exec (.psqrtS rd rs1 x.bits) s = exec (.psqrtxS rd rs1 x) s ∧
    exec (.fsqrtD rd rs1 x.bits) s = exec (.psqrtxD rd rs1 x) s

/-! ### Reserved operands and absent features -/

/-- An odd register number in a pair operand raises IllegalInstruction, in every instruction with pair operands. -/
def Obligations.OddPairIsIllegal : Prop :=
  ∀ (i : Instr) (s : State) (r : FReg), r ∈ i.pairOperands → r.getLsbD 0 = true → RaisesIllegal i s

/-- An instruction of a feature that is absent raises IllegalInstruction. -/
def Obligations.AbsentFeatureIsIllegal : Prop :=
  ∀ (s : State),
    (s.params.hasFlx = false → ∀ rd rs1 imm, RaisesIllegal (.flx rd rs1 imm) s) ∧
    (s.params.hasFsx = false → ∀ rs1 imm rs2, RaisesIllegal (.fsx rs1 imm rs2) s) ∧
    (s.params.hasX128 = false → ∀ rd rs1 rs2 x, ∀ i ∈ [Instr.paddxS rd rs1 rs2 x, .psubxS rd rs1 rs2 x,
      .pmulxS rd rs1 rs2 x, .pdivxS rd rs1 rs2 x, .paddxD rd rs1 rs2 x, .psubxD rd rs1 rs2 x, .pmulxD rd rs1 rs2 x,
      .pdivxD rd rs1 rs2 x, .paddxH rd rs1 rs2 x, .psubxH rd rs1 rs2 x, .pmulxH rd rs1 rs2 x, .pdivxH rd rs1 rs2 x,
      .pcvtxSH rd rs1 x, .pcvtxHS rd rs1 x, .pcvtxSBf16 rd rs1 x, .pcvtxBf16S rd rs1 x, .psqrtxS rd rs1 x,
      .psqrtxD rd rs1 x], RaisesIllegal i s) ∧
    (s.params.hasX128H = false → ∀ rd rs1 rs2 x, ∀ i ∈ [Instr.paddxH rd rs1 rs2 x, .psubxH rd rs1 rs2 x,
      .pmulxH rd rs1 rs2 x, .pdivxH rd rs1 rs2 x], RaisesIllegal i s) ∧
    (s.params.hasPdivx = false → ∀ rd rs1 rs2 x, ∀ i ∈ [Instr.pdivxS rd rs1 rs2 x, .pdivxD rd rs1 rs2 x,
      .pdivxH rd rs1 rs2 x], RaisesIllegal i s) ∧
    (s.params.hasFpk = false → ∀ rd rs1 rs2, ∀ i ∈ [Instr.fpkbbH rd rs1 rs2, .fpkbtH rd rs1 rs2, .fpktbH rd rs1 rs2,
      .fpkttH rd rs1 rs2, .fpkbbS rd rs1 rs2, .fpkbtS rd rs1 rs2, .fpktbS rd rs1 rs2, .fpkttS rd rs1 rs2],
      RaisesIllegal i s) ∧
    (s.params.hasHelper = false → ∀ rd rs1, ∀ i ∈ [Instr.prcpaS rd rs1, .frcpaD rd rs1, .prcpaH rd rs1,
      .psqrtaS rd rs1, .fsqrtaD rd rs1, .psqrtaH rd rs1], RaisesIllegal i s) ∧
    (s.params.hasMisc = false → ∀ rd rs1 rs2, ∀ i ∈ [Instr.pack rd rs1 rs2, .packu rd rs1 rs2, .pkbb16 rd rs1 rs2,
      .pkbt16 rd rs1 rs2, .pktb16 rd rs1 rs2, .pktt16 rd rs1 rs2, .pkbb32 rd rs1 rs2, .pkbt32 rd rs1 rs2,
      .pktb32 rd rs1 rs2, .pktt32 rd rs1 rs2], RaisesIllegal i s) ∧
    (s.params.hasMisc = false → ∀ rd rs1 imm, RaisesIllegal (.pshufW rd rs1 imm) s ∧
      RaisesIllegal (.pfshufW rd rs1 imm) s)

/-! ### Packed arithmetic -/

/-- Add, subtract and multiply of every lane of a register, in .S, .H and .D, and FDIV.D, in the rounding mode of the
instruction; the flags of all lanes accrue; nothing else changes. -/
def Obligations.PackedArithmetic : Prop :=
  ∀ (s : State) (rd rs1 rs2 : FReg) (rm : BitVec 3) (m : RMode), s.rmMeaning rm = .narrow m →
    let N := numericsOf s.params
    LaneOp2 (.paddS rd rs1 rs2 rm) .S 2 (N.add .S m) rd rs1 rs2 s ∧
    LaneOp2 (.psubS rd rs1 rs2 rm) .S 2 (N.sub .S m) rd rs1 rs2 s ∧
    LaneOp2 (.pmulS rd rs1 rs2 rm) .S 2 (N.mul .S m) rd rs1 rs2 s ∧
    LaneOp2 (.paddH rd rs1 rs2 rm) .H 4 (N.add .H m) rd rs1 rs2 s ∧
    LaneOp2 (.psubH rd rs1 rs2 rm) .H 4 (N.sub .H m) rd rs1 rs2 s ∧
    LaneOp2 (.pmulH rd rs1 rs2 rm) .H 4 (N.mul .H m) rd rs1 rs2 s ∧
    LaneOp2 (.faddD rd rs1 rs2 rm) .D 1 (N.add .D m) rd rs1 rs2 s ∧
    LaneOp2 (.fsubD rd rs1 rs2 rm) .D 1 (N.sub .D m) rd rs1 rs2 s ∧
    LaneOp2 (.fmulD rd rs1 rs2 rm) .D 1 (N.mul .D m) rd rs1 rs2 s ∧
    LaneOp2 (.fdivD rd rs1 rs2 rm) .D 1 (N.div .D m) rd rs1 rs2 s

/-- PDIV with a packed unit, and with the emulator that stands in for one, divides every lane. -/
def Obligations.PackedDivide : Prop :=
  ∀ (s : State) (rd rs1 rs2 : FReg) (rm : BitVec 3) (m : RMode), s.rmMeaning rm = .narrow m →
    let N := numericsOf s.params
    (s.params.pdivImpl = .simd ∨
      (s.params.emulationVisible = false ∧ (highNaN .S (s.getF rs1) && highNaN .S (s.getF rs2)) = false) →
      LaneOp2 (.pdivS rd rs1 rs2 rm) .S 2 (N.div .S m) rd rs1 rs2 s) ∧
    (s.params.pdivImpl = .simd ∨
      (s.params.emulationVisible = false ∧ (highNaN .H (s.getF rs1) && highNaN .H (s.getF rs2)) = false) →
      LaneOp2 (.pdivH rd rs1 rs2 rm) .H 4 (N.div .H m) rd rs1 rs2 s)

/-- PDIV without a packed unit: high lanes that are all NaN in both sources give a NaN-boxed scalar quotient; any other
high lane raises EmulationTrap when emulation is visible. -/
def Obligations.ScalarDivide : Prop :=
  ∀ (s : State) (rd rs1 rs2 : FReg) (rm : BitVec 3) (m : RMode), s.rmMeaning rm = .narrow m →
    s.params.pdivImpl = .scalarOrEmulate →
    let N := numericsOf s.params
    let a := s.getF rs1
    let b := s.getF rs2
    (((∀ k, 1 ≤ k → k < 2 → isNaN .S (lane 32 k a) = true ∧ isNaN .S (lane 32 k b) = true) →
        BoxesScalar (.pdivS rd rs1 rs2 rm) .S (N.div .S m (lane 32 0 a) (lane 32 0 b)) rd s) ∧
      ((∃ k, 1 ≤ k ∧ k < 2 ∧ (isNaN .S (lane 32 k a) = false ∨ isNaN .S (lane 32 k b) = false)) →
        s.params.emulationVisible = true →
        Raises (.pdivS rd rs1 rs2 rm) s (.emulationTrap (encode (.pdivS rd rs1 rs2 rm))))) ∧
    (((∀ k, 1 ≤ k → k < 4 → isNaN .H (lane 16 k a) = true ∧ isNaN .H (lane 16 k b) = true) →
        BoxesScalar (.pdivH rd rs1 rs2 rm) .H (N.div .H m (lane 16 0 a) (lane 16 0 b)) rd s) ∧
      ((∃ k, 1 ≤ k ∧ k < 4 ∧ (isNaN .H (lane 16 k a) = false ∨ isNaN .H (lane 16 k b) = false)) →
        s.params.emulationVisible = true →
        Raises (.pdivH rd rs1 rs2 rm) s (.emulationTrap (encode (.pdivH rd rs1 rs2 rm)))))

/-- The X forms compute every lane of a 128-bit pair, rounding as their code says. -/
def Obligations.PairArithmetic : Prop :=
  ∀ (s : State) (rd rs1 rs2 : FReg) (x : XRm), s.params.hasX128 = true → rd.getLsbD 0 = false →
    rs1.getLsbD 0 = false → rs2.getLsbD 0 = false →
    let N := numericsOf s.params
    let m := XRm.rounding x
    (PairOp2 (.paddxS rd rs1 rs2 x) .S 2 (N.add .S m) rd rs1 rs2 s ∧
      PairOp2 (.psubxS rd rs1 rs2 x) .S 2 (N.sub .S m) rd rs1 rs2 s ∧
      PairOp2 (.pmulxS rd rs1 rs2 x) .S 2 (N.mul .S m) rd rs1 rs2 s ∧
      PairOp2 (.paddxD rd rs1 rs2 x) .D 1 (N.add .D m) rd rs1 rs2 s ∧
      PairOp2 (.psubxD rd rs1 rs2 x) .D 1 (N.sub .D m) rd rs1 rs2 s ∧
      PairOp2 (.pmulxD rd rs1 rs2 x) .D 1 (N.mul .D m) rd rs1 rs2 s) ∧
    (s.params.hasX128H = true → PairOp2 (.paddxH rd rs1 rs2 x) .H 4 (N.add .H m) rd rs1 rs2 s ∧
      PairOp2 (.psubxH rd rs1 rs2 x) .H 4 (N.sub .H m) rd rs1 rs2 s ∧
      PairOp2 (.pmulxH rd rs1 rs2 x) .H 4 (N.mul .H m) rd rs1 rs2 s) ∧
    (s.params.hasPdivx = true → PairOp2 (.pdivxS rd rs1 rs2 x) .S 2 (N.div .S m) rd rs1 rs2 s ∧
      PairOp2 (.pdivxD rd rs1 rs2 x) .D 1 (N.div .D m) rd rs1 rs2 s) ∧
    (s.params.hasPdivx = true → s.params.hasX128H = true →
      PairOp2 (.pdivxH rd rs1 rs2 x) .H 4 (N.div .H m) rd rs1 rs2 s)

/-- What every instantiation of the arithmetic keeps. A NaN in a lane of either source gives a NaN in that lane of the
result of packed add, subtract and multiply in .S and .H; every arithmetic primitive and conversion gives a NaN for a NaN
operand, minimum and maximum for two (P2); fp_rcpa and fp_sqrta keep nothing (R238, log 7) and are not spoken of. On numbers, subnormal operands and results apart, add, subtract, multiply, divide, multiply-add,
square root of a positive number and conversion have the result of the named operation where it is exact and a number
(P1). That exactness is where P1 leaves no choice is the
model's reading (log 6). -/
def Obligations.NaNPreservation : Prop :=
  (∀ (s : State) (rd rs1 rs2 : FReg) (rm : BitVec 3) (m : RMode) (k : Nat), s.rmMeaning rm = .narrow m →
    (k < 2 → (isNaN .S (lane 32 k (s.getF rs1)) = true ∨ isNaN .S (lane 32 k (s.getF rs2)) = true) →
      ∀ i ∈ [Instr.paddS rd rs1 rs2 rm, .psubS rd rs1 rs2 rm, .pmulS rd rs1 rs2 rm],
        ∃ t, exec i s = .next t ∧ isNaN .S (lane 32 k (t.getF rd)) = true) ∧
    (k < 4 → (isNaN .H (lane 16 k (s.getF rs1)) = true ∨ isNaN .H (lane 16 k (s.getF rs2)) = true) →
      ∀ i ∈ [Instr.paddH rd rs1 rs2 rm, .psubH rd rs1 rs2 rm, .pmulH rd rs1 rs2 rm],
        ∃ t, exec i s = .next t ∧ isNaN .H (lane 16 k (t.getF rd)) = true)) ∧
  (∀ (p : Params) (fmt : Fmt) (m : RMode) (a b : BitVec fmt.width),
    let N := numericsOf p
    let R := recommendedNumerics
    (isNaN fmt a = true ∨ isNaN fmt b = true →
      isNaN fmt (N.add fmt m a b).1 = true ∧ isNaN fmt (N.sub fmt m a b).1 = true ∧
      isNaN fmt (N.mul fmt m a b).1 = true ∧ isNaN fmt (N.div fmt m a b).1 = true ∧
      ∀ c np nc, isNaN fmt (N.fma fmt m a b c np nc).1 = true ∧ isNaN fmt (N.fma fmt m c a b np nc).1 = true) ∧
    (isNaN fmt a = true → isNaN fmt (N.sqrt fmt m a).1 = true ∧ ∀ dst, isNaN dst (N.cvt dst fmt m a).1 = true) ∧
    (isNaN fmt a = true → isNaN fmt b = true →
      isNaN fmt (N.min fmt a b).1 = true ∧ isNaN fmt (N.max fmt a b).1 = true) ∧
    ∀ f ∈ [(N.add fmt m a b, R.add fmt m a b), (N.sub fmt m a b, R.sub fmt m a b), (N.mul fmt m a b, R.mul fmt m a b),
        (N.div fmt m a b, R.div fmt m a b)],
      isNaN fmt a = false → isNaN fmt b = false → isSubnormal fmt a = false → isSubnormal fmt b = false →
      f.2.2.getLsbD 0 = false → isNaN fmt f.2.1 = false → isSubnormal fmt f.2.1 = false → f.1.1 = f.2.1) ∧
  (∀ (p : Params) (fmt : Fmt) (m : RMode) (a : BitVec fmt.width), isNaN fmt a = false → isSubnormal fmt a = false →
    let N := numericsOf p
    let R := recommendedNumerics
    let exact := fun (g : Fmt) (r : FpResult g) =>
      r.2.getLsbD 0 = false ∧ isNaN g r.1 = false ∧ isSubnormal g r.1 = false
    (∀ b c np nc, isNaN fmt b = false → isNaN fmt c = false → isSubnormal fmt b = false → isSubnormal fmt c = false →
      exact fmt (R.fma fmt m a b c np nc) → (N.fma fmt m a b c np nc).1 = (R.fma fmt m a b c np nc).1) ∧
    (a.msb = false → exact fmt (R.sqrt fmt m a) → (N.sqrt fmt m a).1 = (R.sqrt fmt m a).1) ∧
    (∀ dst, exact dst (R.cvt dst fmt m a) → (N.cvt dst fmt m a).1 = (R.cvt dst fmt m a).1))

/-- The recommended arithmetic on NaN operands: the canonical quiet NaN, and NV exactly when an operand is a signalling
NaN (add, subtract, multiply, divide, square root, conversions); in a multiply-add also for infinity times zero beside a
NaN addend. -/
def Obligations.RecommendedNaNResults : Prop :=
  ∀ (fmt dst : Fmt) (m : RMode) (a b : BitVec fmt.width), isNaN fmt a = true →
    let nv := if isSignalling fmt a || isSignalling fmt b then 0b10000#5 else 0#5
    recommendedNumerics.add fmt m a b = (canonicalNaN fmt, nv) ∧
    recommendedNumerics.add fmt m b a = (canonicalNaN fmt, nv) ∧
    recommendedNumerics.sub fmt m a b = (canonicalNaN fmt, nv) ∧
    recommendedNumerics.sub fmt m b a = (canonicalNaN fmt, nv) ∧
    recommendedNumerics.mul fmt m a b = (canonicalNaN fmt, nv) ∧
    recommendedNumerics.mul fmt m b a = (canonicalNaN fmt, nv) ∧
    recommendedNumerics.div fmt m a b = (canonicalNaN fmt, nv) ∧
    recommendedNumerics.div fmt m b a = (canonicalNaN fmt, nv) ∧
    recommendedNumerics.sqrt fmt m a = (canonicalNaN fmt, if isSignalling fmt a then 0b10000#5 else 0#5) ∧
    recommendedNumerics.cvt dst fmt m a = (canonicalNaN dst, if isSignalling fmt a then 0b10000#5 else 0#5) ∧
    ∀ (c : BitVec fmt.width) (negp negc : Bool),
      let nv3 := if isSignalling fmt a || isSignalling fmt b || isSignalling fmt c then 0b10000#5 else 0#5
      let isInf := fun v : BitVec fmt.width => v = infinity fmt true ∨ v = infinity fmt false
      let isZero := fun v : BitVec fmt.width => v = zeroOf fmt true ∨ v = zeroOf fmt false
      recommendedNumerics.fma fmt m a b c negp negc = (canonicalNaN fmt, nv3) ∧
      recommendedNumerics.fma fmt m b a c negp negc = (canonicalNaN fmt, nv3) ∧
      ((isInf b ∧ isZero c) ∨ (isZero b ∧ isInf c) →
        recommendedNumerics.fma fmt m b c a negp negc = (canonicalNaN fmt, 0b10000#5)) ∧
      (¬((isInf b ∧ isZero c) ∨ (isZero b ∧ isInf c)) →
        recommendedNumerics.fma fmt m b c a negp negc = (canonicalNaN fmt, nv3))

/-- The comparisons: on the numbers a total order in which -0 equals +0. R12 recommends them; that those of any other
instantiation are the same, in their order (of subnormals too) and their flags, is the model's reading of R170 (log 6). Exactly one of less, equal, greater holds, equality is symmetric, less-or-equal is less
or equal, both orders are transitive, positive numbers are ordered as their bit patterns and negative ones against them.
A NaN compares false to everything: FLE and FLT then set NV, FEQ only for a signalling NaN. -/
def Obligations.RecommendedComparisons : Prop :=
  ∀ (p : Params) (fmt : Fmt) (a b : BitVec fmt.width),
    let N := numericsOf p
    (N.le fmt a b = recommendedNumerics.le fmt a b ∧ N.lt fmt a b = recommendedNumerics.lt fmt a b ∧
      N.eq fmt a b = recommendedNumerics.eq fmt a b) ∧
    (isNaN fmt a = false → isNaN fmt b = false →
      ((N.lt fmt a b).1 || (N.eq fmt a b).1 || (N.lt fmt b a).1) = true ∧
      ((N.lt fmt a b).1 && (N.lt fmt b a).1) = false ∧ ((N.lt fmt a b).1 && (N.eq fmt a b).1) = false ∧
      ((N.eq fmt a b).1 && (N.lt fmt b a).1) = false ∧ (N.eq fmt a b).1 = (N.eq fmt b a).1 ∧
      (N.le fmt a b).1 = ((N.lt fmt a b).1 || (N.eq fmt a b).1) ∧
      (∀ c, isNaN fmt c = false →
        ((N.lt fmt a b).1 = true → (N.lt fmt b c).1 = true → (N.lt fmt a c).1 = true) ∧
        ((N.le fmt a b).1 = true → (N.le fmt b c).1 = true → (N.le fmt a c).1 = true)) ∧
      (a.msb = false → b.msb = false → (N.lt fmt a b).1 = decide (a.toNat < b.toNat)) ∧
      (a.msb = true → b.msb = true → (N.lt fmt a b).1 = decide (b.toNat < a.toNat)) ∧
      (N.eq fmt (zeroOf fmt true) (zeroOf fmt false)).1 = true ∧
      (N.lt fmt a b).2 = 0#5 ∧ (N.le fmt a b).2 = 0#5 ∧ (N.eq fmt a b).2 = 0#5) ∧
    (isNaN fmt a = true ∨ isNaN fmt b = true →
      N.lt fmt a b = (false, 0b10000#5) ∧ N.le fmt a b = (false, 0b10000#5) ∧ (N.eq fmt a b).1 = false ∧
      (N.eq fmt a b).2 = if isSignalling fmt a || isSignalling fmt b then 0b10000#5 else 0#5)

/-! ### Sign injection, compares, minimum and maximum -/

/-- Sign injection, lane by lane: the value bits of `f[rs1]` under a sign bit that is that of `f[rs2]`, its inverse, or
the XOR of both; no flags. -/
def Obligations.SignInjection : Prop :=
  ∀ (s : State) (rd rs1 rs2 : FReg),
    let bits := fun (w : Nat) (n : Nat) (sign : Bool → Bool → Bool) (v : Word) =>
      ∀ k, k < n → ∀ b, b < w → (lane w k v).getLsbD b =
        if b = w - 1 then sign ((lane w k (s.getF rs1)).getLsbD b) ((lane w k (s.getF rs2)).getLsbD b)
        else (lane w k (s.getF rs1)).getLsbD b
    WritesF (.psgnjS rd rs1 rs2) s rd (bits 32 2 fun _ q => q) 0#5 ∧
    WritesF (.psgnjnS rd rs1 rs2) s rd (bits 32 2 fun _ q => !q) 0#5 ∧
    WritesF (.psgnjxS rd rs1 rs2) s rd (bits 32 2 fun p q => p ^^ q) 0#5 ∧
    WritesF (.fsgnjD rd rs1 rs2) s rd (bits 64 1 fun _ q => q) 0#5 ∧
    WritesF (.fsgnjnD rd rs1 rs2) s rd (bits 64 1 fun _ q => !q) 0#5 ∧
    WritesF (.fsgnjxD rd rs1 rs2) s rd (bits 64 1 fun p q => p ^^ q) 0#5 ∧
    WritesF (.psgnjH rd rs1 rs2) s rd (bits 16 4 fun _ q => q) 0#5 ∧
    WritesF (.psgnjnH rd rs1 rs2) s rd (bits 16 4 fun _ q => !q) 0#5 ∧
    WritesF (.psgnjxH rd rs1 rs2) s rd (bits 16 4 fun p q => p ^^ q) 0#5

/-- FLE, FLT and FEQ compare the low elements, write 0 or 1 to an integer register (nothing to `x[0]`) and accrue
flags even then. -/
def Obligations.Compares : Prop :=
  ∀ (s : State) (rd : XReg) (rs1 rs2 : FReg),
    let N := numericsOf s.params
    let a := s.getF rs1
    let b := s.getF rs2
    let low := fun (i : Instr) (r : Bool × FpFlags) => WritesX i s rd (if r.1 then 1#64 else 0#64) r.2
    low (.fleS rd rs1 rs2) (N.le .S (lane 32 0 a) (lane 32 0 b)) ∧
    low (.fltS rd rs1 rs2) (N.lt .S (lane 32 0 a) (lane 32 0 b)) ∧
    low (.feqS rd rs1 rs2) (N.eq .S (lane 32 0 a) (lane 32 0 b)) ∧
    low (.fleD rd rs1 rs2) (N.le .D a b) ∧ low (.fltD rd rs1 rs2) (N.lt .D a b) ∧
    low (.feqD rd rs1 rs2) (N.eq .D a b) ∧
    low (.fleH rd rs1 rs2) (N.le .H (lane 16 0 a) (lane 16 0 b)) ∧
    low (.fltH rd rs1 rs2) (N.lt .H (lane 16 0 a) (lane 16 0 b)) ∧
    low (.feqH rd rs1 rs2) (N.eq .H (lane 16 0 a) (lane 16 0 b))

/-- PMIN and PMAX select in every lane; the flags of all lanes accrue. -/
def Obligations.MinMax : Prop :=
  ∀ (s : State) (rd rs1 rs2 : FReg),
    let N := numericsOf s.params
    LaneOp2 (.pminS rd rs1 rs2) .S 2 (N.min .S) rd rs1 rs2 s ∧
    LaneOp2 (.pmaxS rd rs1 rs2) .S 2 (N.max .S) rd rs1 rs2 s ∧
    LaneOp2 (.pminH rd rs1 rs2) .H 4 (N.min .H) rd rs1 rs2 s ∧
    LaneOp2 (.pmaxH rd rs1 rs2) .H 4 (N.max .H) rd rs1 rs2 s

/-- Minimum and maximum. The recommended ones: one of the two operands or the canonical NaN; of two numbers the minimum
is less than or equal to both and the maximum is not less than either, and -0 is less than +0; with one NaN, the other
operand. Those of any
instantiation: one of the operands or a NaN, of two numbers in order the lesser and the greater, and NV exactly for a
signalling NaN; these clauses on any instantiation are the model's reading of R180 and R181 (log 6). -/
def Obligations.RecommendedMinMax : Prop :=
  ∀ (fmt : Fmt) (a b : BitVec fmt.width),
    let N := recommendedNumerics
    let mn := (N.min fmt a b).1
    let mx := (N.max fmt a b).1
    (isNaN fmt a = false → isNaN fmt b = false → (mn = a ∨ mn = b) ∧ (mx = a ∨ mx = b) ∧
      (N.le fmt mn a).1 = true ∧ (N.le fmt mn b).1 = true ∧ (N.le fmt a mx).1 = true ∧ (N.le fmt b mx).1 = true) ∧
    (isNaN fmt a = true → isNaN fmt b = false → mn = b ∧ mx = b) ∧
    (isNaN fmt a = false → isNaN fmt b = true → mn = a ∧ mx = a) ∧
    (isNaN fmt a = true → isNaN fmt b = true → mn = canonicalNaN fmt ∧ mx = canonicalNaN fmt) ∧
    (a = zeroOf fmt true → b = zeroOf fmt false →
      mn = a ∧ mx = b ∧ (N.min fmt b a).1 = a ∧ (N.max fmt b a).1 = b) ∧
    ∀ p : Params,
      let M := numericsOf p
      let nv := if isSignalling fmt a || isSignalling fmt b then 0b10000#5 else 0#5
      ((M.min fmt a b).1 = a ∨ (M.min fmt a b).1 = b ∨ isNaN fmt (M.min fmt a b).1 = true) ∧
      ((M.max fmt a b).1 = a ∨ (M.max fmt a b).1 = b ∨ isNaN fmt (M.max fmt a b).1 = true) ∧
      ((M.lt fmt a b).1 = true →
        (M.min fmt a b).1 = a ∧ (M.min fmt b a).1 = a ∧ (M.max fmt a b).1 = b ∧ (M.max fmt b a).1 = b) ∧
      (M.min fmt a b).2 = nv ∧ (M.max fmt a b).2 = nv

/-! ### Packs, conversions, square roots, helpers -/

/-- The eight packs: the selection from `f[rs1]` above the selection from `f[rs2]`; the .H forms leave zeros in
63:32. -/
def Obligations.Packs : Prop :=
  ∀ (s : State) (rd rs1 rs2 : FReg), s.params.hasFpk = true →
    let a := s.getF rs1
    let b := s.getF rs2
    let puts := fun (i : Instr) (w : Nat) (p q : BitVec w) =>
      WritesF i s rd (fun v => lane w 1 v = p ∧ lane w 0 v = q ∧ ∀ k, 2 * w ≤ k → v.getLsbD k = false) 0#5
    puts (.fpkbbH rd rs1 rs2) 16 (lane 16 0 a) (lane 16 0 b) ∧
    puts (.fpkbtH rd rs1 rs2) 16 (lane 16 0 a) (lane 16 1 b) ∧
    puts (.fpktbH rd rs1 rs2) 16 (lane 16 1 a) (lane 16 0 b) ∧
    puts (.fpkttH rd rs1 rs2) 16 (lane 16 1 a) (lane 16 1 b) ∧
    puts (.fpkbbS rd rs1 rs2) 32 (lane 32 0 a) (lane 32 0 b) ∧
    puts (.fpkbtS rd rs1 rs2) 32 (lane 32 0 a) (lane 32 1 b) ∧
    puts (.fpktbS rd rs1 rs2) 32 (lane 32 1 a) (lane 32 0 b) ∧
    puts (.fpkttS rd rs1 rs2) 32 (lane 32 1 a) (lane 32 1 b)

/-- FCVT converts the low element: to Binary64 in all 64 bits, from Binary64 to a NaN-boxed element. -/
def Obligations.ScalarConversions : Prop :=
  ∀ (s : State) (rd rs1 : FReg) (rm : BitVec 3) (m : RMode), s.rmMeaning rm = .narrow m →
    let N := numericsOf s.params
    let a := s.getF rs1
    let toD := fun (i : Instr) (r : FpResult .D) => WritesF i s rd (fun v => v = r.1) r.2
    toD (.fcvtDS rd rs1 rm) (N.cvt .D .S m (lane 32 0 a)) ∧ toD (.fcvtDH rd rs1 rm) (N.cvt .D .H m (lane 16 0 a)) ∧
    toD (.fcvtDBf16 rd rs1 rm) (N.cvt .D .B m (lane 16 0 a)) ∧
    BoxesScalar (.fcvtSD rd rs1 rm) .S (N.cvt .S .D m a) rd s ∧
    BoxesScalar (.fcvtHD rd rs1 rm) .H (N.cvt .H .D m a) rd s ∧
    BoxesScalar (.fcvtBf16D rd rs1 rm) .B (N.cvt .B .D m a) rd s

/-- PCVT and PCVTHI convert two lanes: 16-bit lanes 0 and 1, or 2 and 3, to the two Binary32 lanes; and the two Binary32
lanes to 16-bit lanes 0 and 1, with CVT_NARROW_HIGH above them. -/
def Obligations.LaneConversions : Prop :=
  ∀ (s : State) (rd rs1 : FReg) (rm : BitVec 3) (m : RMode), s.rmMeaning rm = .narrow m →
    let N := numericsOf s.params
    let a := s.getF rs1
    let widens := fun (i : Instr) (r0 r1 : FpResult .S) =>
      WritesF i s rd (fun v => lane 32 0 v = r0.1 ∧ lane 32 1 v = r1.1) (r0.2 ||| r1.2)
    let narrows := fun (i : Instr) (r0 r1 : BitVec 16 × FpFlags) =>
      WritesF i s rd (fun v => lane 16 0 v = r0.1 ∧ lane 16 1 v = r1.1 ∧ lane 32 1 v = s.params.cvtNarrowHigh)
        (r0.2 ||| r1.2)
    widens (.pcvtSH rd rs1 rm) (N.cvt .S .H m (lane 16 0 a)) (N.cvt .S .H m (lane 16 1 a)) ∧
    widens (.pcvtSBf16 rd rs1 rm) (N.cvt .S .B m (lane 16 0 a)) (N.cvt .S .B m (lane 16 1 a)) ∧
    widens (.pcvthiSH rd rs1 rm) (N.cvt .S .H m (lane 16 2 a)) (N.cvt .S .H m (lane 16 3 a)) ∧
    widens (.pcvthiSBf16 rd rs1 rm) (N.cvt .S .B m (lane 16 2 a)) (N.cvt .S .B m (lane 16 3 a)) ∧
    narrows (.pcvtHS rd rs1 rm) (N.cvt .H .S m (lane 32 0 a)) (N.cvt .H .S m (lane 32 1 a)) ∧
    narrows (.pcvtBf16S rd rs1 rm) (N.cvt .B .S m (lane 32 0 a)) (N.cvt .B .S m (lane 32 1 a))

/-- PCVTX converts four lanes: 16-bit lanes of one register to the Binary32 lanes of a pair, and back. -/
def Obligations.PairConversions : Prop :=
  ∀ (s : State) (rd rs1 : FReg) (x : XRm), s.params.hasX128 = true →
    let N := numericsOf s.params
    let m := XRm.rounding x
    let a := s.getF rs1
    let b := s.getF (highReg rs1)
    let widens := fun (i : Instr) (r : Nat → FpResult .S) =>
      WritesPair i s rd (fun v => lane 32 0 v = (r 0).1 ∧ lane 32 1 v = (r 1).1)
        (fun v => lane 32 0 v = (r 2).1 ∧ lane 32 1 v = (r 3).1) (orFlags 4 fun k => (r k).2)
    let narrows := fun (i : Instr) (r0 r1 r2 r3 : BitVec 16 × FpFlags) =>
      WritesF i s rd
        (fun v => lane 16 0 v = r0.1 ∧ lane 16 1 v = r1.1 ∧ lane 16 2 v = r2.1 ∧ lane 16 3 v = r3.1)
        (r0.2 ||| r1.2 ||| r2.2 ||| r3.2)
    (rd.getLsbD 0 = false →
      widens (.pcvtxSH rd rs1 x) (fun k => N.cvt .S .H m (lane 16 k a)) ∧
      widens (.pcvtxSBf16 rd rs1 x) fun k => N.cvt .S .B m (lane 16 k a)) ∧
    (rs1.getLsbD 0 = false →
      narrows (.pcvtxHS rd rs1 x) (N.cvt .H .S m (lane 32 0 a)) (N.cvt .H .S m (lane 32 1 a))
        (N.cvt .H .S m (lane 32 0 b)) (N.cvt .H .S m (lane 32 1 b)) ∧
      narrows (.pcvtxBf16S rd rs1 x) (N.cvt .B .S m (lane 32 0 a)) (N.cvt .B .S m (lane 32 1 a))
        (N.cvt .B .S m (lane 32 0 b)) (N.cvt .B .S m (lane 32 1 b)))

/-- PCVT.S.H to the even register and PCVTHI.S.H to the odd one leave what PCVTX.S.H leaves in the pair, and the same
flags, for every input and whatever the rounding mode of each (R202; for a NaN by the reading of log 6), when the pair
does not contain the source; the BF16 forms likewise. Two PCVT.H.S and an FPKBB.S with the high half first leave in the destination what
PCVTX.H.S leaves in the same mode. -/
def Obligations.ConversionSequences : Prop :=
  ∀ (s t : State) (rd rs1 : FReg) (x : XRm) (rm rm' : BitVec 3) (m m' : RMode), s.rmMeaning rm = .narrow m →
    s.rmMeaning rm' = .narrow m' → s.trap = none → t.trap = none →
    (rs1 ≠ rd → rs1 ≠ highReg rd → exec (.pcvtxSH rd rs1 x) s = .next t →
      ∃ u v, exec (.pcvtSH rd rs1 rm) s = .next u ∧ exec (.pcvthiSH (highReg rd) rs1 rm') u = .next v ∧
        v.f = t.f ∧ v.fflags = t.fflags) ∧
    (rs1 ≠ rd → rs1 ≠ highReg rd → exec (.pcvtxSBf16 rd rs1 x) s = .next t →
      ∃ u v, exec (.pcvtSBf16 rd rs1 rm) s = .next u ∧ exec (.pcvthiSBf16 (highReg rd) rs1 rm') u = .next v ∧
        v.f = t.f ∧ v.fflags = t.fflags) ∧
    (m = XRm.rounding x → highReg rs1 ≠ rd → s.params.hasFpk = true → exec (.pcvtxHS rd rs1 x) s = .next t →
      ∃ u v w, exec (.pcvtHS rd rs1 rm) s = .next u ∧ exec (.pcvtHS (highReg rd) (highReg rs1) rm) u = .next v ∧
        exec (.fpkbbS rd (highReg rd) rd) v = .next w ∧ w.getF rd = t.getF rd ∧ w.fflags = t.fflags)

/-- Square roots with a packed unit, or with the emulator that stands in for one; FSQRT.D always. -/
def Obligations.PackedSquareRoot : Prop :=
  ∀ (s : State) (rd rs1 : FReg) (rm : BitVec 3) (m : RMode), s.rmMeaning rm = .narrow m →
    let N := numericsOf s.params
    (s.params.psqrtImpl = .simd ∨ (s.params.emulationVisible = false ∧ highNaN .S (s.getF rs1) = false) →
      LaneOp1 (.psqrtS rd rs1 rm) .S 2 (N.sqrt .S m) rd rs1 s) ∧
    (s.params.psqrtImpl = .simd ∨ (s.params.emulationVisible = false ∧ highNaN .H (s.getF rs1) = false) →
      LaneOp1 (.psqrtH rd rs1 rm) .H 4 (N.sqrt .H m) rd rs1 s) ∧
    LaneOp1 (.fsqrtD rd rs1 rm) .D 1 (N.sqrt .D m) rd rs1 s

/-- Square roots without a packed unit: NaN high lanes give a NaN-boxed scalar root, others raise EmulationTrap when
emulation is visible; a pair is always the emulated case. -/
def Obligations.ScalarSquareRoot : Prop :=
  ∀ (s : State) (rd rs1 : FReg) (rm : BitVec 3) (m : RMode) (x : XRm), s.rmMeaning rm = .narrow m →
    s.params.psqrtImpl = .scalarOrEmulate →
    let N := numericsOf s.params
    let a := s.getF rs1
    ((isNaN .S (lane 32 1 a) = true → BoxesScalar (.psqrtS rd rs1 rm) .S (N.sqrt .S m (lane 32 0 a)) rd s) ∧
      (isNaN .S (lane 32 1 a) = false → s.params.emulationVisible = true →
        Raises (.psqrtS rd rs1 rm) s (.emulationTrap (encode (.psqrtS rd rs1 rm))))) ∧
    (((∀ k, 1 ≤ k → k < 4 → isNaN .H (lane 16 k a) = true) →
        BoxesScalar (.psqrtH rd rs1 rm) .H (N.sqrt .H m (lane 16 0 a)) rd s) ∧
      ((∃ k, 1 ≤ k ∧ k < 4 ∧ isNaN .H (lane 16 k a) = false) → s.params.emulationVisible = true →
        Raises (.psqrtH rd rs1 rm) s (.emulationTrap (encode (.psqrtH rd rs1 rm))))) ∧
    (s.params.emulationVisible = true → s.params.hasX128 = true → rd.getLsbD 0 = false → rs1.getLsbD 0 = false →
      Raises (.psqrtxS rd rs1 x) s (.emulationTrap (encode (.psqrtxS rd rs1 x))) ∧
      Raises (.psqrtxD rd rs1 x) s (.emulationTrap (encode (.psqrtxD rd rs1 x))))

/-- PSQRTX takes the square root of every lane of a pair. -/
def Obligations.PairSquareRoot : Prop :=
  ∀ (s : State) (rd rs1 : FReg) (x : XRm), s.params.hasX128 = true → rd.getLsbD 0 = false → rs1.getLsbD 0 = false →
    (s.params.psqrtImpl = .simd ∨ s.params.emulationVisible = false) →
    PairOp1 (.psqrtxS rd rs1 x) .S 2 ((numericsOf s.params).sqrt .S (XRm.rounding x)) rd rs1 s ∧
    PairOp1 (.psqrtxD rd rs1 x) .D 1 ((numericsOf s.params).sqrt .D (XRm.rounding x)) rd rs1 s

/-- The helper approximations apply one function, whose values are free, to every lane of their source, and accrue the
flags it returns. -/
def Obligations.HelperApproximations : Prop :=
  ∀ (s : State) (rd rs1 : FReg), s.params.hasHelper = true →
    let N := numericsOf s.params
    LaneOp1 (.prcpaS rd rs1) .S 2 (N.rcpa .S) rd rs1 s ∧ LaneOp1 (.frcpaD rd rs1) .D 1 (N.rcpa .D) rd rs1 s ∧
    LaneOp1 (.prcpaH rd rs1) .H 4 (N.rcpa .H) rd rs1 s ∧ LaneOp1 (.psqrtaS rd rs1) .S 2 (N.sqrta .S) rd rs1 s ∧
    LaneOp1 (.fsqrtaD rd rs1) .D 1 (N.sqrta .D) rd rs1 s ∧ LaneOp1 (.psqrtaH rd rs1) .H 4 (N.sqrta .H) rd rs1 s

/-! ### Fused multiply-add -/

/-- The PMADD family with HAS_PMADD: one fused multiply-add for every lane, the signs as the mnemonic says. -/
def Obligations.PackedMultiplyAdd : Prop :=
  ∀ (s : State) (rd rs1 rs2 rs3 : FReg) (rm : BitVec 3) (m : RMode), s.rmMeaning rm = .narrow m →
    s.params.hasPmadd = true →
    let fmaS := fun (negp negc : Bool) (a b c : BitVec 32) => (numericsOf s.params).fma .S m a b c negp negc
    let fmaH := fun (negp negc : Bool) (a b c : BitVec 16) => (numericsOf s.params).fma .H m a b c negp negc
    LaneOp3 (.pmaddS rd rs1 rs2 rs3 rm) .S 2 (fmaS false false) rd rs1 rs2 rs3 s ∧
    LaneOp3 (.pmaddH rd rs1 rs2 rs3 rm) .H 4 (fmaH false false) rd rs1 rs2 rs3 s ∧
    LaneOp3 (.pmsubS rd rs1 rs2 rs3 rm) .S 2 (fmaS false true) rd rs1 rs2 rs3 s ∧
    LaneOp3 (.pmsubH rd rs1 rs2 rs3 rm) .H 4 (fmaH false true) rd rs1 rs2 rs3 s ∧
    LaneOp3 (.pnmsubS rd rs1 rs2 rs3 rm) .S 2 (fmaS true false) rd rs1 rs2 rs3 s ∧
    LaneOp3 (.pnmsubH rd rs1 rs2 rs3 rm) .H 4 (fmaH true false) rd rs1 rs2 rs3 s ∧
    LaneOp3 (.pnmaddS rd rs1 rs2 rs3 rm) .S 2 (fmaS true true) rd rs1 rs2 rs3 s ∧
    LaneOp3 (.pnmaddH rd rs1 rs2 rs3 rm) .H 4 (fmaH true true) rd rs1 rs2 rs3 s

/-- Without HAS_PMADD the same encodings are the scalar family: lane 0 only, NaN-boxed. -/
def Obligations.ScalarMultiplyAdd : Prop :=
  ∀ (s : State) (rd rs1 rs2 rs3 : FReg) (rm : BitVec 3) (m : RMode), s.rmMeaning rm = .narrow m →
    s.params.hasPmadd = false →
    let N := numericsOf s.params
    let oneS := N.fma .S m (lane 32 0 (s.getF rs1)) (lane 32 0 (s.getF rs2)) (lane 32 0 (s.getF rs3))
    let oneH := N.fma .H m (lane 16 0 (s.getF rs1)) (lane 16 0 (s.getF rs2)) (lane 16 0 (s.getF rs3))
    BoxesScalar (.pmaddS rd rs1 rs2 rs3 rm) .S (oneS false false) rd s ∧
    BoxesScalar (.pmaddH rd rs1 rs2 rs3 rm) .H (oneH false false) rd s ∧
    BoxesScalar (.pmsubS rd rs1 rs2 rs3 rm) .S (oneS false true) rd s ∧
    BoxesScalar (.pmsubH rd rs1 rs2 rs3 rm) .H (oneH false true) rd s ∧
    BoxesScalar (.pnmsubS rd rs1 rs2 rs3 rm) .S (oneS true false) rd s ∧
    BoxesScalar (.pnmsubH rd rs1 rs2 rs3 rm) .H (oneH true false) rd s ∧
    BoxesScalar (.pnmaddS rd rs1 rs2 rs3 rm) .S (oneS true true) rd s ∧
    BoxesScalar (.pnmaddH rd rs1 rs2 rs3 rm) .H (oneH true true) rd s

/-! ### Misc instructions and imports -/

/-- The Misc instructions apply their function, recommended or the implementation's own, to their sources; a write to
`x[0]` is discarded; no flags. -/
def Obligations.MiscInstructions : Prop :=
  ∀ (s : State) (rd rs1 rs2 : XReg) (fd fs : FReg) (imm : BitVec 8), s.params.hasMisc = true →
    let M := miscFnsOf s.params
    let a := s.getX rs1
    let b := s.getX rs2
    WritesX (.pack rd rs1 rs2) s rd (M.pack a b) 0#5 ∧ WritesX (.packu rd rs1 rs2) s rd (M.packu a b) 0#5 ∧
    WritesX (.pkbb16 rd rs1 rs2) s rd (M.pkbb16 a b) 0#5 ∧ WritesX (.pkbt16 rd rs1 rs2) s rd (M.pkbt16 a b) 0#5 ∧
    WritesX (.pktb16 rd rs1 rs2) s rd (M.pktb16 a b) 0#5 ∧ WritesX (.pktt16 rd rs1 rs2) s rd (M.pktt16 a b) 0#5 ∧
    WritesX (.pkbb32 rd rs1 rs2) s rd (M.pkbb32 a b) 0#5 ∧ WritesX (.pkbt32 rd rs1 rs2) s rd (M.pkbt32 a b) 0#5 ∧
    WritesX (.pktb32 rd rs1 rs2) s rd (M.pktb32 a b) 0#5 ∧ WritesX (.pktt32 rd rs1 rs2) s rd (M.pktt32 a b) 0#5 ∧
    WritesX (.pshufW rd rs1 imm) s rd (shufWOf s.params a imm) 0#5 ∧
    WritesF (.pfshufW fd fs imm) s fd (fun v => v = shufWOf s.params (s.getF fs) imm) 0#5

/-- The recommended Misc functions, by the halves and quarters of their operands; the shuffle by two bits of the
immediate for each lane. -/
def Obligations.RecommendedMisc : Prop :=
  ∀ (a b : Word) (imm : BitVec 8),
    let M := recommendedMiscFns
    let S := recommendedShufW a imm
    M.pack a b = lane 32 0 b ++ lane 32 0 a ∧ M.packu a b = lane 32 1 b ++ lane 32 1 a ∧
    M.pkbb32 a b = lane 32 0 a ++ lane 32 0 b ∧ M.pkbt32 a b = lane 32 0 a ++ lane 32 1 b ∧
    M.pktb32 a b = lane 32 1 a ++ lane 32 0 b ∧ M.pktt32 a b = lane 32 1 a ++ lane 32 1 b ∧
    M.pkbb16 a b = lane 16 2 a ++ lane 16 2 b ++ lane 16 0 a ++ lane 16 0 b ∧
    M.pkbt16 a b = lane 16 2 a ++ lane 16 3 b ++ lane 16 0 a ++ lane 16 1 b ∧
    M.pktb16 a b = lane 16 3 a ++ lane 16 2 b ++ lane 16 1 a ++ lane 16 0 b ∧
    M.pktt16 a b = lane 16 3 a ++ lane 16 3 b ++ lane 16 1 a ++ lane 16 1 b ∧
    (∀ k, k < 4 → lane 16 k S = lane 16 (imm.extractLsb' (2 * k) 2).toNat a) ∧
    recommendedShufW a 0xE4#8 = a

/-- FMV.X.D and FMV.D.X move 64 bits unchanged, SUB and ADDI compute modulo 2^64; no flags. -/
def Obligations.Imports : Prop :=
  ∀ (s : State) (rd rs1 rs2 : XReg) (fr : FReg) (imm : BitVec 12),
    WritesX (.fmvXD rd fr) s rd (s.getF fr) 0#5 ∧ WritesF (.fmvDX fr rs1) s fr (fun v => v = s.getX rs1) 0#5 ∧
    WritesX (.sub rd rs1 rs2) s rd (s.getX rs1 - s.getX rs2) 0#5 ∧
    WritesX (.addi rd rs1 imm) s rd (s.getX rs1 + imm.signExtend 64) 0#5

/-- JALR jumps to the sum with bit 0 cleared and links `pc + 4`; a target with bit 1 set raises
InstructionAddressMisaligned with it. -/
def Obligations.Jalr : Prop :=
  ∀ (s : State) (rd rs1 : XReg) (imm : BitVec 12),
    let t := (s.getX rs1 + imm.signExtend 64) &&& ~~~1#64
    (t.getLsbD 1 = false → ∃ u, exec (.jalr rd rs1 imm) s = .next u ∧ u.pc = t ∧
      u.getX rd = (if rd = 0#5 then 0#64 else s.pc + 4#64) ∧ u.fflags = s.fflags ∧ Unchanged [] [rd] s u ∧
      MemUnchanged s u) ∧
    (t.getLsbD 1 = true → Raises (.jalr rd rs1 imm) s (.instructionAddressMisaligned t))
end

