-- ==== Sys2Proof/Laws/State.lean ====
section
/-! SUPPORT. One lemma per field per update of the state, and reading a register or a byte after an update. -/

namespace Sys2Proof.Machine

variable (s : State)

/-! ### `setF` -/

@[simp] theorem State.setF_f (r : FReg) (v : Word) : (s.setF r v).f = s.f.set r.toNat v r.isLt := rfl
@[simp] theorem State.setF_x (r : FReg) (v : Word) : (s.setF r v).x = s.x := rfl
@[simp] theorem State.setF_pc (r : FReg) (v : Word) : (s.setF r v).pc = s.pc := rfl
@[simp] theorem State.setF_frm (r : FReg) (v : Word) : (s.setF r v).frm = s.frm := rfl
@[simp] theorem State.setF_fflags (r : FReg) (v : Word) : (s.setF r v).fflags = s.fflags := rfl
@[simp] theorem State.setF_mem (r : FReg) (v : Word) : (s.setF r v).mem = s.mem := rfl
@[simp] theorem State.setF_trap (r : FReg) (v : Word) : (s.setF r v).trap = s.trap := rfl
@[simp] theorem State.setF_stored (r : FReg) (v : Word) : (s.setF r v).stored = s.stored := rfl
@[simp] theorem State.setF_params (r : FReg) (v : Word) : (s.setF r v).params = s.params := rfl

/-! ### `setX` -/

@[simp] theorem State.setX_f (r : XReg) (v : Word) : (s.setX r v).f = s.f := by unfold State.setX; split <;> rfl
@[simp] theorem State.setX_pc (r : XReg) (v : Word) : (s.setX r v).pc = s.pc := by unfold State.setX; split <;> rfl
@[simp] theorem State.setX_frm (r : XReg) (v : Word) : (s.setX r v).frm = s.frm := by unfold State.setX; split <;> rfl
@[simp] theorem State.setX_fflags (r : XReg) (v : Word) : (s.setX r v).fflags = s.fflags := by unfold State.setX; split <;> rfl
@[simp] theorem State.setX_mem (r : XReg) (v : Word) : (s.setX r v).mem = s.mem := by unfold State.setX; split <;> rfl
@[simp] theorem State.setX_trap (r : XReg) (v : Word) : (s.setX r v).trap = s.trap := by unfold State.setX; split <;> rfl
@[simp] theorem State.setX_stored (r : XReg) (v : Word) : (s.setX r v).stored = s.stored := by unfold State.setX; split <;> rfl
@[simp] theorem State.setX_params (r : XReg) (v : Word) : (s.setX r v).params = s.params := by unfold State.setX; split <;> rfl

/-! ### `setPair` -/

@[simp] theorem State.setPair_x (r : FReg) (lo hi : Word) : (s.setPair r lo hi).x = s.x := rfl
@[simp] theorem State.setPair_pc (r : FReg) (lo hi : Word) : (s.setPair r lo hi).pc = s.pc := rfl
@[simp] theorem State.setPair_frm (r : FReg) (lo hi : Word) : (s.setPair r lo hi).frm = s.frm := rfl
@[simp] theorem State.setPair_fflags (r : FReg) (lo hi : Word) : (s.setPair r lo hi).fflags = s.fflags := rfl
@[simp] theorem State.setPair_mem (r : FReg) (lo hi : Word) : (s.setPair r lo hi).mem = s.mem := rfl
@[simp] theorem State.setPair_trap (r : FReg) (lo hi : Word) : (s.setPair r lo hi).trap = s.trap := rfl
@[simp] theorem State.setPair_stored (r : FReg) (lo hi : Word) : (s.setPair r lo hi).stored = s.stored := rfl
@[simp] theorem State.setPair_params (r : FReg) (lo hi : Word) : (s.setPair r lo hi).params = s.params := rfl

/-! ### `advance` -/

@[simp] theorem State.advance_f : (s.advance).f = s.f := rfl
@[simp] theorem State.advance_x : (s.advance).x = s.x := rfl
@[simp] theorem State.advance_pc : (s.advance).pc = s.pc + 4#64 := rfl
@[simp] theorem State.advance_frm : (s.advance).frm = s.frm := rfl
@[simp] theorem State.advance_fflags : (s.advance).fflags = s.fflags := rfl
@[simp] theorem State.advance_mem : (s.advance).mem = s.mem := rfl
@[simp] theorem State.advance_trap : (s.advance).trap = s.trap := rfl
@[simp] theorem State.advance_stored : (s.advance).stored = s.stored := rfl
@[simp] theorem State.advance_params : (s.advance).params = s.params := rfl

/-! ### `jump` -/

@[simp] theorem State.jump_f (a : Word) : (s.jump a).f = s.f := rfl
@[simp] theorem State.jump_x (a : Word) : (s.jump a).x = s.x := rfl
@[simp] theorem State.jump_pc (a : Word) : (s.jump a).pc = a := rfl
@[simp] theorem State.jump_frm (a : Word) : (s.jump a).frm = s.frm := rfl
@[simp] theorem State.jump_fflags (a : Word) : (s.jump a).fflags = s.fflags := rfl
@[simp] theorem State.jump_mem (a : Word) : (s.jump a).mem = s.mem := rfl
@[simp] theorem State.jump_trap (a : Word) : (s.jump a).trap = s.trap := rfl
@[simp] theorem State.jump_stored (a : Word) : (s.jump a).stored = s.stored := rfl
@[simp] theorem State.jump_params (a : Word) : (s.jump a).params = s.params := rfl

/-! ### `accrue` -/

@[simp] theorem State.accrue_f (fl : FpFlags) : (s.accrue fl).f = s.f := rfl
@[simp] theorem State.accrue_x (fl : FpFlags) : (s.accrue fl).x = s.x := rfl
@[simp] theorem State.accrue_pc (fl : FpFlags) : (s.accrue fl).pc = s.pc := rfl
@[simp] theorem State.accrue_frm (fl : FpFlags) : (s.accrue fl).frm = s.frm := rfl
@[simp] theorem State.accrue_fflags (fl : FpFlags) : (s.accrue fl).fflags = s.fflags ||| fl := rfl
@[simp] theorem State.accrue_mem (fl : FpFlags) : (s.accrue fl).mem = s.mem := rfl
@[simp] theorem State.accrue_trap (fl : FpFlags) : (s.accrue fl).trap = s.trap := rfl
@[simp] theorem State.accrue_stored (fl : FpFlags) : (s.accrue fl).stored = s.stored := rfl
@[simp] theorem State.accrue_params (fl : FpFlags) : (s.accrue fl).params = s.params := rfl

/-! ### `raise` -/

@[simp] theorem State.raise_f (e : Cause) : (s.raise e).f = s.f := rfl
@[simp] theorem State.raise_x (e : Cause) : (s.raise e).x = s.x := rfl
@[simp] theorem State.raise_pc (e : Cause) : (s.raise e).pc = s.pc := rfl
@[simp] theorem State.raise_frm (e : Cause) : (s.raise e).frm = s.frm := rfl
@[simp] theorem State.raise_fflags (e : Cause) : (s.raise e).fflags = s.fflags := rfl
@[simp] theorem State.raise_mem (e : Cause) : (s.raise e).mem = s.mem := rfl
@[simp] theorem State.raise_trap (e : Cause) : (s.raise e).trap = some ⟨e, s.pc⟩ := rfl
@[simp] theorem State.raise_stored (e : Cause) : (s.raise e).stored = s.stored := rfl
@[simp] theorem State.raise_params (e : Cause) : (s.raise e).params = s.params := rfl

/-! ### `writeByte` -/

@[simp] theorem State.writeByte_f (a : Word) (b : Byte) : (s.writeByte a b).f = s.f := rfl
@[simp] theorem State.writeByte_x (a : Word) (b : Byte) : (s.writeByte a b).x = s.x := rfl
@[simp] theorem State.writeByte_pc (a : Word) (b : Byte) : (s.writeByte a b).pc = s.pc := rfl
@[simp] theorem State.writeByte_frm (a : Word) (b : Byte) : (s.writeByte a b).frm = s.frm := rfl
@[simp] theorem State.writeByte_fflags (a : Word) (b : Byte) : (s.writeByte a b).fflags = s.fflags := rfl
@[simp] theorem State.writeByte_mem (a : Word) (b : Byte) : (s.writeByte a b).mem = s.mem.write a.toNat b := rfl
@[simp] theorem State.writeByte_trap (a : Word) (b : Byte) : (s.writeByte a b).trap = s.trap := rfl
@[simp] theorem State.writeByte_stored (a : Word) (b : Byte) : (s.writeByte a b).stored = a.toNat :: s.stored := rfl
@[simp] theorem State.writeByte_params (a : Word) (b : Byte) : (s.writeByte a b).params = s.params := rfl

/-! ### `withFcsr` -/

@[simp] theorem State.withFcsr_f (v : Word) : (s.withFcsr v).f = s.f := rfl
@[simp] theorem State.withFcsr_x (v : Word) : (s.withFcsr v).x = s.x := rfl
@[simp] theorem State.withFcsr_pc (v : Word) : (s.withFcsr v).pc = s.pc := rfl
@[simp] theorem State.withFcsr_frm (v : Word) : (s.withFcsr v).frm = v.extractLsb' 5 3 := rfl
@[simp] theorem State.withFcsr_fflags (v : Word) : (s.withFcsr v).fflags = v.extractLsb' 0 5 := rfl
@[simp] theorem State.withFcsr_mem (v : Word) : (s.withFcsr v).mem = s.mem := rfl
@[simp] theorem State.withFcsr_trap (v : Word) : (s.withFcsr v).trap = s.trap := rfl
@[simp] theorem State.withFcsr_stored (v : Word) : (s.withFcsr v).stored = s.stored := rfl
@[simp] theorem State.withFcsr_params (v : Word) : (s.withFcsr v).params = s.params := rfl

/-! ### `loadWord` -/

@[simp] theorem State.loadWord_f (a : Word) (w : InsnWord) : (s.loadWord a w).f = s.f := rfl
@[simp] theorem State.loadWord_x (a : Word) (w : InsnWord) : (s.loadWord a w).x = s.x := rfl
@[simp] theorem State.loadWord_pc (a : Word) (w : InsnWord) : (s.loadWord a w).pc = s.pc := rfl
@[simp] theorem State.loadWord_frm (a : Word) (w : InsnWord) : (s.loadWord a w).frm = s.frm := rfl
@[simp] theorem State.loadWord_fflags (a : Word) (w : InsnWord) : (s.loadWord a w).fflags = s.fflags := rfl
@[simp] theorem State.loadWord_trap (a : Word) (w : InsnWord) : (s.loadWord a w).trap = s.trap := rfl
@[simp] theorem State.loadWord_params (a : Word) (w : InsnWord) : (s.loadWord a w).params = s.params := rfl

/-! ### `memWrite` -/

@[simp] theorem State.memWrite_f (ea v : Word) (n : Nat) : (s.memWrite ea v n).f = s.f := by
  induction n with
  | zero => rfl
  | succ n ih => simpa [State.memWrite] using ih

@[simp] theorem State.memWrite_x (ea v : Word) (n : Nat) : (s.memWrite ea v n).x = s.x := by
  induction n with
  | zero => rfl
  | succ n ih => simpa [State.memWrite] using ih

@[simp] theorem State.memWrite_pc (ea v : Word) (n : Nat) : (s.memWrite ea v n).pc = s.pc := by
  induction n with
  | zero => rfl
  | succ n ih => simpa [State.memWrite] using ih

@[simp] theorem State.memWrite_frm (ea v : Word) (n : Nat) : (s.memWrite ea v n).frm = s.frm := by
  induction n with
  | zero => rfl
  | succ n ih => simpa [State.memWrite] using ih

@[simp] theorem State.memWrite_fflags (ea v : Word) (n : Nat) : (s.memWrite ea v n).fflags = s.fflags := by
  induction n with
  | zero => rfl
  | succ n ih => simpa [State.memWrite] using ih

@[simp] theorem State.memWrite_trap (ea v : Word) (n : Nat) : (s.memWrite ea v n).trap = s.trap := by
  induction n with
  | zero => rfl
  | succ n ih => simpa [State.memWrite] using ih

@[simp] theorem State.memWrite_params (ea v : Word) (n : Nat) : (s.memWrite ea v n).params = s.params := by
  induction n with
  | zero => rfl
  | succ n ih => simpa [State.memWrite] using ih

/-! ### Reading a floating-point register -/

@[simp] theorem State.getF_setF_same (r : FReg) (v : Word) : (s.setF r v).getF r = v := by
  simp [State.getF, State.setF]

theorem State.getF_setF_ne {r q : FReg} (h : q ≠ r) (v : Word) : (s.setF r v).getF q = s.getF q := by
  have : r.toNat ≠ q.toNat := fun e => h (BitVec.eq_of_toNat_eq e.symm)
  simp [State.getF, State.setF, this]

/-- Two states with the same registers read the same. -/
theorem State.getF_congr {s t : State} (h : t.f = s.f) (r : FReg) : t.getF r = s.getF r := by
  simp only [State.getF, h]

/-- A register is never its own upper neighbour: the numbers are taken modulo 32. -/
theorem highReg_ne (r : FReg) : highReg r ≠ r := by
  intro h
  have := congrArg BitVec.toNat h
  simp [highReg, BitVec.toNat_add] at this
  omega

@[simp] theorem State.getF_setPair_hi (r : FReg) (lo hi : Word) : (s.setPair r lo hi).getF (highReg r) = hi := by
  simp [State.setPair]

@[simp] theorem State.getF_setPair_lo (r : FReg) (lo hi : Word) : (s.setPair r lo hi).getF r = lo := by
  rw [State.setPair, State.getF_setF_ne _ (highReg_ne r).symm, State.getF_setF_same]

theorem State.getF_setPair_ne {r q : FReg} (h : q ≠ r) (h' : q ≠ highReg r) (lo hi : Word) :
    (s.setPair r lo hi).getF q = s.getF q := by
  rw [State.setPair, State.getF_setF_ne _ h', State.getF_setF_ne _ h]

@[simp] theorem State.getF_setX (r : XReg) (v : Word) (q : FReg) : (s.setX r v).getF q = s.getF q :=
  State.getF_congr (by simp) q
@[simp] theorem State.getF_advance (q : FReg) : (s.advance).getF q = s.getF q :=
  State.getF_congr (by simp) q
@[simp] theorem State.getF_jump (a : Word) (q : FReg) : (s.jump a).getF q = s.getF q :=
  State.getF_congr (by simp) q
@[simp] theorem State.getF_accrue (fl : FpFlags) (q : FReg) : (s.accrue fl).getF q = s.getF q :=
  State.getF_congr (by simp) q
@[simp] theorem State.getF_raise (e : Cause) (q : FReg) : (s.raise e).getF q = s.getF q :=
  State.getF_congr (by simp) q
@[simp] theorem State.getF_writeByte (a : Word) (b : Byte) (q : FReg) : (s.writeByte a b).getF q = s.getF q :=
  State.getF_congr (by simp) q
@[simp] theorem State.getF_withFcsr (v : Word) (q : FReg) : (s.withFcsr v).getF q = s.getF q :=
  State.getF_congr (by simp) q
@[simp] theorem State.getF_memWrite (ea v : Word) (n : Nat) (q : FReg) : (s.memWrite ea v n).getF q = s.getF q :=
  State.getF_congr (by simp) q
@[simp] theorem State.getF_loadWord (a : Word) (w : InsnWord) (q : FReg) : (s.loadWord a w).getF q = s.getF q :=
  State.getF_congr (by simp) q

/-! ### Reading an integer register -/

/-- Two states with the same registers read the same. -/
theorem State.getX_congr {s t : State} (h : t.x = s.x) (r : XReg) : t.getX r = s.getX r := by
  simp only [State.getX, h]

@[simp] theorem State.getX_zero : s.getX 0#5 = 0#64 := rfl

/-- A write to `x[0]` is discarded (R23). -/
@[simp] theorem State.setX_zero (v : Word) : s.setX 0#5 v = s := rfl

theorem State.getX_setX_same {r : XReg} (h : r ≠ 0#5) (v : Word) : (s.setX r v).getX r = v := by
  simp [State.getX, State.setX, h]

theorem State.getX_setX_ne {r q : XReg} (h : q ≠ r) (v : Word) : (s.setX r v).getX q = s.getX q := by
  have hn : r.toNat ≠ q.toNat := fun e => h (BitVec.eq_of_toNat_eq e.symm)
  by_cases hr : r = 0#5
  · simp [State.setX, hr]
  · simp [State.getX, State.setX, hr, hn]

/-- Everything a write to an integer register can do: `x[0]` keeps its zero, another register takes the value. -/
theorem State.getX_setX (r q : XReg) (v : Word) :
    (s.setX r v).getX q = if q = r ∧ r ≠ 0#5 then v else s.getX q := by
  by_cases h : q = r
  · subst h
    by_cases hr : q = 0#5
    · subst hr; simp
    · simp [hr, State.getX_setX_same]
  · simp [h, State.getX_setX_ne]

@[simp] theorem State.getX_setF (r : FReg) (v : Word) (q : XReg) : (s.setF r v).getX q = s.getX q :=
  State.getX_congr (by simp) q
@[simp] theorem State.getX_setPair (r : FReg) (lo hi : Word) (q : XReg) : (s.setPair r lo hi).getX q = s.getX q :=
  State.getX_congr (by simp) q
@[simp] theorem State.getX_advance (q : XReg) : (s.advance).getX q = s.getX q :=
  State.getX_congr (by simp) q
@[simp] theorem State.getX_jump (a : Word) (q : XReg) : (s.jump a).getX q = s.getX q :=
  State.getX_congr (by simp) q
@[simp] theorem State.getX_accrue (fl : FpFlags) (q : XReg) : (s.accrue fl).getX q = s.getX q :=
  State.getX_congr (by simp) q
@[simp] theorem State.getX_raise (e : Cause) (q : XReg) : (s.raise e).getX q = s.getX q :=
  State.getX_congr (by simp) q
@[simp] theorem State.getX_writeByte (a : Word) (b : Byte) (q : XReg) : (s.writeByte a b).getX q = s.getX q :=
  State.getX_congr (by simp) q
@[simp] theorem State.getX_withFcsr (v : Word) (q : XReg) : (s.withFcsr v).getX q = s.getX q :=
  State.getX_congr (by simp) q
@[simp] theorem State.getX_memWrite (ea v : Word) (n : Nat) (q : XReg) : (s.memWrite ea v n).getX q = s.getX q :=
  State.getX_congr (by simp) q
@[simp] theorem State.getX_loadWord (a : Word) (w : InsnWord) (q : XReg) : (s.loadWord a w).getX q = s.getX q :=
  State.getX_congr (by simp) q

/-! ### Reading a byte -/

/-- Two states with the same memory read the same. -/
theorem State.readByte_congr {s t : State} (h : t.mem = s.mem) (a : Word) : t.readByte a = s.readByte a := by
  simp only [State.readByte, h]

@[simp] theorem State.readByte_setF (r : FReg) (v : Word) (a' : Word) : (s.setF r v).readByte a' = s.readByte a' :=
  State.readByte_congr (by simp) a'
@[simp] theorem State.readByte_setX (r : XReg) (v : Word) (a' : Word) : (s.setX r v).readByte a' = s.readByte a' :=
  State.readByte_congr (by simp) a'
@[simp] theorem State.readByte_setPair (r : FReg) (lo hi : Word) (a' : Word) : (s.setPair r lo hi).readByte a' = s.readByte a' :=
  State.readByte_congr (by simp) a'
@[simp] theorem State.readByte_advance (a' : Word) : (s.advance).readByte a' = s.readByte a' :=
  State.readByte_congr (by simp) a'
@[simp] theorem State.readByte_jump (a : Word) (a' : Word) : (s.jump a).readByte a' = s.readByte a' :=
  State.readByte_congr (by simp) a'
@[simp] theorem State.readByte_accrue (fl : FpFlags) (a' : Word) : (s.accrue fl).readByte a' = s.readByte a' :=
  State.readByte_congr (by simp) a'
@[simp] theorem State.readByte_raise (e : Cause) (a' : Word) : (s.raise e).readByte a' = s.readByte a' :=
  State.readByte_congr (by simp) a'
@[simp] theorem State.readByte_withFcsr (v : Word) (a' : Word) : (s.withFcsr v).readByte a' = s.readByte a' :=
  State.readByte_congr (by simp) a'

/-! ### The reset state -/

@[simp] theorem State.resetWith_getF (p : Params) (a : Word) (r : FReg) : (State.resetWith p a).getF r = 0#64 := by
  simp [State.getF, State.resetWith]

@[simp] theorem State.resetWith_getX (p : Params) (a : Word) (r : XReg) : (State.resetWith p a).getX r = 0#64 := by
  simp [State.getX, State.resetWith]

end Sys2Proof.Machine
end

