-- ==== Sys2Proof/Laws/Memory.lean ====
section
/-! SUPPORT. The laws of memory: read after write, the canonical form, the bytes of an access. -/

namespace Sys2Proof.Machine

/-! ### One byte -/

theorem Memory.read_write_same (m : Memory) (i : Nat) (v : Byte) : (Memory.write m i v).read i = some v := by
  induction m with
  | nil => simp [Memory.write, Memory.read]
  | cons c m ih =>
    obtain ⟨a, b⟩ := c
    simp only [Memory.write]
    split
    · simp [Memory.read]
    · split
      · simp [Memory.read]
      · next h => simp [Memory.read, h, ih]

theorem Memory.read_write_ne (m : Memory) {i j : Nat} (h : j ≠ i) (v : Byte) :
    (Memory.write m i v).read j = m.read j := by
  induction m with
  | nil => simp [Memory.write, Memory.read, h]
  | cons c m ih =>
    obtain ⟨a, b⟩ := c
    simp only [Memory.write]
    split
    · simp [Memory.read, h]
    · split
      · next h1 => subst h1; simp [Memory.read, h]
      · simp [Memory.read, ih]

theorem Memory.wfFrom_mono {m : Memory} {lo lo' : Nat} (h : lo' ≤ lo) (hm : Memory.wfFrom lo m = true) :
    Memory.wfFrom lo' m = true := by
  cases m with
  | nil => rfl
  | cons c m =>
    obtain ⟨a, b⟩ := c
    simp only [Memory.wfFrom, Bool.and_eq_true, decide_eq_true_eq] at hm ⊢
    exact ⟨⟨by omega, hm.1.2⟩, hm.2⟩

theorem Memory.wfFrom_write {m : Memory} {lo i : Nat} (hlo : lo ≤ i) (hi : i < 2 ^ 64) (v : Byte)
    (hm : Memory.wfFrom lo m = true) : Memory.wfFrom lo (m.write i v) = true := by
  induction m generalizing lo with
  | nil => simp only [Memory.write, Memory.wfFrom, Bool.and_eq_true, decide_eq_true_eq]; exact ⟨⟨hlo, hi⟩, trivial⟩
  | cons c m ih =>
    obtain ⟨a, b⟩ := c
    simp only [Memory.wfFrom, Bool.and_eq_true, decide_eq_true_eq] at hm
    obtain ⟨⟨h1, h2⟩, h3⟩ := hm
    simp only [Memory.write]
    split
    · simp only [Memory.wfFrom, Bool.and_eq_true, decide_eq_true_eq]
      exact ⟨⟨hlo, hi⟩, ⟨by omega, h2⟩, h3⟩
    · split
      · next h => subst h; simp only [Memory.wfFrom, Bool.and_eq_true, decide_eq_true_eq]; exact ⟨⟨h1, hi⟩, h3⟩
      · simp only [Memory.wfFrom, Bool.and_eq_true, decide_eq_true_eq]
        exact ⟨⟨h1, h2⟩, ih (by omega) h3⟩

/-- Writing a byte keeps the canonical form. -/
theorem Memory.wf_write {m : Memory} {i : Nat} (hi : i < 2 ^ 64) (v : Byte) (hm : m.wf = true) :
    (Memory.write m i v).wf = true :=
  Memory.wfFrom_write (Nat.zero_le i) hi v hm

/-- The memory of a start state is canonical. -/
@[simp] theorem State.resetWith_mem_wf (p : Params) (a : Word) : (State.resetWith p a).mem.wf = true := rfl

/-- In a canonical memory nothing is listed below its first address. -/
theorem Memory.read_eq_none_of_wfFrom {m : Memory} {lo i : Nat} (hm : Memory.wfFrom lo m = true) (h : i < lo) :
    m.read i = none := by
  induction m generalizing lo with
  | nil => rfl
  | cons c m ih =>
    obtain ⟨a, b⟩ := c
    simp only [Memory.wfFrom, Bool.and_eq_true, decide_eq_true_eq] at hm
    have : i ≠ a := by omega
    simp only [Memory.read, this, if_false]
    exact ih hm.2 (by omega)

/-- Equal contents are equal lists: what the canonical form is for. -/
theorem Memory.ext_of_wfFrom {m m' : Memory} {lo lo' : Nat} (hm : Memory.wfFrom lo m = true)
    (hm' : Memory.wfFrom lo' m' = true) (h : ∀ i, m.read i = m'.read i) : m = m' := by
  induction m generalizing m' lo lo' with
  | nil =>
    cases m' with
    | nil => rfl
    | cons c m' => have := h c.1; simp [Memory.read] at this
  | cons c m ih =>
    obtain ⟨a, b⟩ := c
    cases m' with
    | nil => have := h a; simp [Memory.read] at this
    | cons c' m' =>
      obtain ⟨a', b'⟩ := c'
      simp only [Memory.wfFrom, Bool.and_eq_true, decide_eq_true_eq] at hm hm'
      have key : a = a' := by
        rcases Nat.lt_trichotomy a a' with hlt | heq | hgt
        · have h1 := h a
          have h2 : Memory.read m' a = none := Memory.read_eq_none_of_wfFrom hm'.2 (by omega)
          have h3 : a ≠ a' := by omega
          simp [Memory.read, h2, h3] at h1
        · exact heq
        · have h1 := h a'
          have h2 : Memory.read m a' = none := Memory.read_eq_none_of_wfFrom hm.2 (by omega)
          have h3 : a' ≠ a := by omega
          simp [Memory.read, h2, h3] at h1
      subst key
      have hb := h a
      simp [Memory.read] at hb
      subst hb
      have : m = m' := by
        refine ih hm.2 hm'.2 fun i => ?_
        by_cases hi : i = a
        · subst hi
          rw [Memory.read_eq_none_of_wfFrom hm.2 (by omega), Memory.read_eq_none_of_wfFrom hm'.2 (by omega)]
        · have := h i
          simpa [Memory.read, hi] using this
      rw [this]

/-! ### Bytes of the state -/

variable (s : State)

@[simp] theorem State.readByte_writeByte_same (a : Word) (b : Byte) : (s.writeByte a b).readByte a = b := by
  simp [State.readByte, Memory.read_write_same]

theorem State.readByte_writeByte_ne {a a' : Word} (h : a' ≠ a) (b : Byte) :
    (s.writeByte a b).readByte a' = s.readByte a' := by
  have hn : a'.toNat ≠ a.toNat := fun e => h (BitVec.eq_of_toNat_eq e)
  simp [State.readByte, Memory.read_write_ne _ hn]

@[simp] theorem byteAddr_zero (ea : Word) : byteAddr ea 0 = ea := by simp [byteAddr]

/-- The bytes of an access lie at different addresses. -/
theorem byteAddr_inj {ea : Word} {j k : Nat} (hj : j < 2 ^ 64) (hk : k < 2 ^ 64) (h : byteAddr ea j = byteAddr ea k) :
    j = k := by
  have h1 : BitVec.ofNat 64 j = BitVec.ofNat 64 k := by
    have h2 : ea + BitVec.ofNat 64 j = ea + BitVec.ofNat 64 k := h
    bv_omega
  have := congrArg BitVec.toNat h1
  simp only [BitVec.toNat_ofNat, Nat.mod_eq_of_lt hj, Nat.mod_eq_of_lt hk] at this
  exact this

/-- The address of a byte of the second half of an access. -/
theorem byteAddr_add (ea : Word) (j k : Nat) : byteAddr (byteAddr ea j) k = byteAddr ea (j + k) := by
  have : BitVec.ofNat 64 (j + k) = BitVec.ofNat 64 j + BitVec.ofNat 64 k := by
    apply BitVec.eq_of_toNat_eq; simp [BitVec.toNat_add]
  simp only [byteAddr, this]
  exact BitVec.add_assoc _ _ _

/-- A store of `n` bytes puts byte `k` of the value at `ea + k`. -/
theorem State.readByte_memWrite_in (ea v : Word) {n k : Nat} (hk : k < n) (hn : n ≤ 2 ^ 64) :
    (s.memWrite ea v n).readByte (byteAddr ea k) = lane 8 k v := by
  induction n with
  | zero => omega
  | succ n ih =>
    simp only [State.memWrite]
    by_cases h : k = n
    · subst h; simp
    · rw [State.readByte_writeByte_ne]
      · exact ih (by omega) (by omega)
      · exact fun e => h (byteAddr_inj (by omega) (by omega) e)

/-- A store leaves every address outside its bytes alone. -/
theorem State.readByte_memWrite_out (ea v : Word) {n : Nat} {a : Word} (h : ∀ k, k < n → a ≠ byteAddr ea k) :
    (s.memWrite ea v n).readByte a = s.readByte a := by
  induction n with
  | zero => rfl
  | succ n ih =>
    simp only [State.memWrite]
    rw [State.readByte_writeByte_ne _ (h n (by omega))]
    exact ih fun k hk => h k (by omega)

/-- A store keeps the canonical form. -/
theorem State.memWrite_wf {ea v : Word} {n : Nat} (h : s.mem.wf = true) : (s.memWrite ea v n).mem.wf = true := by
  induction n with
  | zero => exact h
  | succ n ih =>
    simp only [State.memWrite, State.writeByte_mem]
    exact Memory.wf_write (byteAddr ea n).isLt _ ih

/-- Loading an instruction word keeps the canonical form. -/
theorem State.loadWord_wf {a : Word} {w : InsnWord} (h : s.mem.wf = true) : (s.loadWord a w).mem.wf = true := by
  simp only [State.loadWord]
  exact Memory.wf_write (BitVec.isLt _) _ (Memory.wf_write (BitVec.isLt _) _ (Memory.wf_write (BitVec.isLt _) _
    (Memory.wf_write (BitVec.isLt _) _ h)))

/-- The addresses a store notes (R54): those of its bytes, before what was noted already. -/
theorem State.mem_memWrite_stored (ea v : Word) (n : Nat) (a : Nat) :
    a ∈ (s.memWrite ea v n).stored ↔ a ∈ s.stored ∨ ∃ k < n, a = (byteAddr ea k).toNat := by
  induction n with
  | zero => simp [State.memWrite]
  | succ n ih =>
    simp only [State.memWrite, State.writeByte_stored, List.mem_cons, ih]
    constructor
    · rintro (h | h | ⟨k, hk, h⟩)
      · exact .inr ⟨n, by omega, h⟩
      · exact .inl h
      · exact .inr ⟨k, by omega, h⟩
    · rintro (h | ⟨k, hk, h⟩)
      · exact .inr (.inl h)
      · by_cases e : k = n
        · subst e; exact .inl h
        · exact .inr (.inr ⟨k, by omega, h⟩)

/-- `allBytes` says that every byte of the access satisfies the condition. -/
theorem allBytes_iff {P : Word → Bool} {ea : Word} {n : Nat} :
    allBytes P ea n = true ↔ ∀ k, k < n → P (byteAddr ea k) = true := by
  induction n with
  | zero => simp [allBytes]
  | succ n ih =>
    simp only [allBytes, Bool.and_eq_true, ih]
    constructor
    · rintro ⟨h, h'⟩ k hk
      by_cases e : k = n
      · subst e; exact h'
      · exact h k (by omega)
    · exact fun h => ⟨fun k hk => h k (by omega), h n (by omega)⟩

end Sys2Proof.Machine
end

