-- ==== Sys2Proof/Laws/Lanes.lean ====
section
/-! SUPPORT. The laws of lanes, NaN-boxes and accrued flags. -/

namespace Sys2Proof.Machine

theorem getLsbD_lane (w k : Nat) (v : Word) (i : Nat) :
    (lane w k v).getLsbD i = (decide (i < w) && v.getLsbD (w * k + i)) := by
  simp [lane, BitVec.getLsbD_extractLsb']

/-- The bit of a joined value at place `i` of lane `k`. -/
theorem getLsbD_joinLanes {w n : Nat} (g : Nat → BitVec w) (h : w * n ≤ 64) {k i : Nat} (hi : i < w) :
    (joinLanes w n g).getLsbD (w * k + i) = (decide (k < n) && (g k).getLsbD i) := by
  induction n with
  | zero => simp [joinLanes]
  | succ n ih =>
    have hw : w * n + w ≤ 64 := by rw [← Nat.mul_succ]; exact h
    have ih' := ih (by omega)
    simp only [joinLanes, BitVec.getLsbD_or, ih', BitVec.getLsbD_shiftLeft, BitVec.getLsbD_setWidth]
    rcases Nat.lt_trichotomy k n with hlt | heq | hgt
    · have h1 : w * (k + 1) ≤ w * n := Nat.mul_le_mul_left w hlt
      rw [Nat.mul_succ] at h1
      have h2 : w * k + i < w * n := by omega
      have h3 : k < n + 1 := by omega
      simp [hlt, h2, h3]
    · subst heq
      have h2 : ¬ (w * k + i < w * k) := by omega
      have h3 : w * k + i - w * k = i := by omega
      have h4 : w * k + i < 64 := by omega
      have h5 : i < 64 := by omega
      simp [h3, h4, h5]
    · have h1 : w * (n + 1) ≤ w * k := Nat.mul_le_mul_left w hgt
      rw [Nat.mul_succ] at h1
      have h2 : ¬ k < n := by omega
      have h3 : ¬ k < n + 1 := by omega
      have h4 : w ≤ w * k + i - w * n := by omega
      simp [h2, h3, BitVec.getLsbD_of_ge _ _ h4]

/-- Lane `k` of a joined value is what went into it. -/
theorem lane_joinLanes {w n : Nat} (g : Nat → BitVec w) (h : w * n ≤ 64) {k : Nat} (hk : k < n) :
    lane w k (joinLanes w n g) = g k := by
  apply BitVec.eq_of_getLsbD_eq
  intro i hi
  rw [getLsbD_lane, getLsbD_joinLanes g h hi]
  simp [hi, hk]

/-- Above its lanes a joined value is zero. -/
theorem lane_joinLanes_high {w n : Nat} (g : Nat → BitVec w) (h : w * n ≤ 64) {k : Nat} (hk : n ≤ k) :
    lane w k (joinLanes w n g) = 0#w := by
  apply BitVec.eq_of_getLsbD_eq
  intro i hi
  rw [getLsbD_lane, getLsbD_joinLanes g h hi]
  simp; omega

/-- A register is determined by its lanes. -/
theorem eq_of_lanes {w n : Nat} (hw : 0 < w) (h : w * n = 64) {a b : Word} (hl : ∀ k, k < n → lane w k a = lane w k b) :
    a = b := by
  apply BitVec.eq_of_getLsbD_eq
  intro i hi
  have hk : i / w < n := by
    apply (Nat.div_lt_iff_lt_mul hw).2
    rw [Nat.mul_comm]; omega
  have hm : i % w < w := Nat.mod_lt _ hw
  have he : w * (i / w) + i % w = i := Nat.div_add_mod i w
  have := congrArg (fun v => BitVec.getLsbD v (i % w)) (hl _ hk)
  simp only [getLsbD_lane, hm, he, decide_true, Bool.true_and] at this
  exact this

/-- Joining the lanes of a register gives the register. -/
theorem joinLanes_lane {w n : Nat} (hw : 0 < w) (h : w * n = 64) (v : Word) :
    joinLanes w n (fun k => lane w k v) = v :=
  eq_of_lanes hw h fun k hk => lane_joinLanes (fun k => lane w k v) (by omega) hk

theorem lane_eq_of_eq {w n : Nat} {g g' : Nat → BitVec w} (h : ∀ k, k < n → g k = g' k) :
    joinLanes w n g = joinLanes w n g' := by
  induction n with
  | zero => rfl
  | succ n ih => simp only [joinLanes]; rw [ih fun k hk => h k (by omega), h n (by omega)]

theorem width_mul_lanesOf (fmt : Fmt) : fmt.width * lanesOf fmt = 64 := by cases fmt <;> rfl

theorem lanesOf_pos (fmt : Fmt) : 0 < lanesOf fmt := by cases fmt <;> decide

/-- Lane `k` of the value `collect` builds. -/
theorem fmtLane_collect {fmt : Fmt} {n : Nat} (hn : n ≤ lanesOf fmt) (g : Nat → FpResult fmt) {k : Nat} (hk : k < n) :
    fmtLane fmt k (collect fmt n g).1 = (g k).1 := by
  have h : fmt.width * n ≤ 64 := by rw [← width_mul_lanesOf fmt]; exact Nat.mul_le_mul_left _ hn
  exact lane_joinLanes (fun k => (g k).1) h hk

@[simp] theorem collect_flags (fmt : Fmt) (n : Nat) (g : Nat → FpResult fmt) :
    (collect fmt n g).2 = orFlags n fun k => (g k).2 := rfl

/-- Every lane of a packed unary operation (R230). -/
theorem fmtLane_packed1 {fmt : Fmt} (op : BitVec fmt.width → FpResult fmt) (a : Word) {k : Nat} (hk : k < lanesOf fmt) :
    fmtLane fmt k (packed1 fmt op a).1 = (op (fmtLane fmt k a)).1 :=
  fmtLane_collect (Nat.le_refl _) _ hk

/-- Every lane of a packed binary operation (R120). -/
theorem fmtLane_packed2 {fmt : Fmt} (op : BitVec fmt.width → BitVec fmt.width → FpResult fmt) (a b : Word) {k : Nat}
    (hk : k < lanesOf fmt) :
    fmtLane fmt k (packed2 fmt op a b).1 = (op (fmtLane fmt k a) (fmtLane fmt k b)).1 :=
  fmtLane_collect (Nat.le_refl _) _ hk

/-- Every lane of a packed ternary operation (R251). -/
theorem fmtLane_packed3 {fmt : Fmt} (op : BitVec fmt.width → BitVec fmt.width → BitVec fmt.width → FpResult fmt)
    (a b c : Word) {k : Nat} (hk : k < lanesOf fmt) :
    fmtLane fmt k (packed3 fmt op a b c).1 = (op (fmtLane fmt k a) (fmtLane fmt k b) (fmtLane fmt k c)).1 :=
  fmtLane_collect (Nat.le_refl _) _ hk

@[simp] theorem packed1_flags (fmt : Fmt) (op : BitVec fmt.width → FpResult fmt) (a : Word) :
    (packed1 fmt op a).2 = orFlags (lanesOf fmt) fun k => (op (fmtLane fmt k a)).2 := rfl

@[simp] theorem packed2_flags (fmt : Fmt) (op : BitVec fmt.width → BitVec fmt.width → FpResult fmt) (a b : Word) :
    (packed2 fmt op a b).2 = orFlags (lanesOf fmt) fun k => (op (fmtLane fmt k a) (fmtLane fmt k b)).2 := rfl

@[simp] theorem packed3_flags (fmt : Fmt)
    (op : BitVec fmt.width → BitVec fmt.width → BitVec fmt.width → FpResult fmt) (a b c : Word) :
    (packed3 fmt op a b c).2 =
      orFlags (lanesOf fmt) fun k => (op (fmtLane fmt k a) (fmtLane fmt k b) (fmtLane fmt k c)).2 := rfl

/-- A flag is among the flags of the lanes when some lane raises it (R27). -/
theorem getLsbD_orFlags (n : Nat) (g : Nat → FpFlags) (i : Nat) :
    (orFlags n g).getLsbD i = true ↔ ∃ k, k < n ∧ (g k).getLsbD i = true := by
  induction n with
  | zero => simp [orFlags]
  | succ n ih =>
    simp only [orFlags, BitVec.getLsbD_or, Bool.or_eq_true, ih]
    constructor
    · rintro (⟨k, hk, h⟩ | h)
      · exact ⟨k, by omega, h⟩
      · exact ⟨n, by omega, h⟩
    · rintro ⟨k, hk, h⟩
      by_cases e : k = n
      · subst e; exact .inr h
      · exact .inl ⟨k, by omega, h⟩

/-- `highNaN` says that every lane but lane 0 is a NaN (R32). -/
theorem highNaN_iff {fmt : Fmt} {v : Word} :
    highNaN fmt v = true ↔ ∀ k, 1 ≤ k → k < lanesOf fmt → isNaN fmt (fmtLane fmt k v) = true := by
  have key : ∀ n, highLanesAll fmt (isNaN fmt) v n = true ↔ ∀ k, 1 ≤ k → k ≤ n → isNaN fmt (fmtLane fmt k v) = true := by
    intro n
    induction n with
    | zero => simp only [highLanesAll, true_iff]; intro k h1 h2; omega
    | succ n ih =>
      simp only [highLanesAll, Bool.and_eq_true, ih]
      constructor
      · rintro ⟨h, h'⟩ k h1 h2
        by_cases e : k = n + 1
        · subst e; exact h'
        · exact h k h1 (by omega)
      · exact fun h => ⟨fun k h1 h2 => h k h1 (by omega), h (n + 1) (by omega) (by omega)⟩
  have hp := lanesOf_pos fmt
  rw [highNaN, key]
  exact ⟨fun h k h1 h2 => h k h1 (by omega), fun h k h1 h2 => h k h1 (by omega)⟩

/-- The low element of a NaN-boxed value (R30). -/
theorem lane_zero_nanbox {w : Nat} (h : w ≤ 64) (e : BitVec w) : lane w 0 (nanbox e) = e := by
  apply BitVec.eq_of_getLsbD_eq
  intro i hi
  have h64 : i < 64 := by omega
  rw [getLsbD_lane]
  simp only [nanbox, BitVec.getLsbD_or, BitVec.getLsbD_shiftLeft, BitVec.getLsbD_setWidth, Nat.mul_zero, Nat.zero_add,
    hi, h64, decide_true, Bool.true_and, Bool.not_true, Bool.false_and, Bool.false_or]

/-- Above its element a NaN-boxed value is all ones (R30). -/
theorem getLsbD_nanbox_high {w : Nat} (e : BitVec w) {i : Nat} (h : w ≤ i) (hi : i < 64) :
    (nanbox e).getLsbD i = true := by
  have h64 : i - w < 64 := by omega
  have h' : ¬ i < w := by omega
  simp only [nanbox, BitVec.getLsbD_or, BitVec.getLsbD_shiftLeft, BitVec.getLsbD_allOnes, hi, h64, h', decide_true,
    decide_false, Bool.not_false, Bool.true_and, Bool.true_or]

/-- Byte `k` of a load is the byte in memory (R41). -/
theorem lane_memRead (s : State) (ea : Word) {n k : Nat} (hn : n ≤ 8) (hk : k < n) :
    lane 8 k (s.memRead ea n) = s.readByte (byteAddr ea k) :=
  lane_joinLanes _ (by omega) hk

/-- A load of 8 bytes after a store of 8 bytes gives the stored value (R41). -/
theorem memRead_memWrite (s : State) (ea v : Word) : (s.memWrite ea v 8).memRead ea 8 = v :=
  eq_of_lanes (w := 8) (n := 8) (by omega) (by omega) fun k hk => by
    rw [lane_memRead _ _ (by omega) hk, State.readByte_memWrite_in _ _ _ hk (by omega)]

/-- Loads see only the bytes they read. -/
theorem State.memRead_congr {s t : State} {ea : Word} {n : Nat}
    (h : ∀ k, k < n → t.readByte (byteAddr ea k) = s.readByte (byteAddr ea k)) : t.memRead ea n = s.memRead ea n :=
  lane_eq_of_eq h

end Sys2Proof.Machine
end

