-- ==== Sys2Proof/Laws/Access.lean ====
section
/-! SUPPORT. What the checks of loads and stores answer, and what the bytes read by a load make. -/

set_option maxRecDepth 8000

namespace Sys2Proof.Machine

variable {s : State} {ea : Word} {n al : Nat} {b : Bool} {f k : Result}

theorem aligned_iff : aligned ea n = true ↔ ea.toNat % n = 0 := by simp [aligned]

/-- The three low bits of an address are zero exactly when it is a multiple of 8. -/
theorem low3_iff : ea.extractLsb' 0 3 = 0#3 ↔ ea.toNat % 8 = 0 := by
  constructor
  · intro h; simpa using congrArg BitVec.toNat h
  · intro h; apply BitVec.eq_of_toNat_eq; simpa using h

theorem checkedLoad_passes (h : b = true ∨ aligned ea al = true) (hv : s.accessValid ea n = true) :
    checkedLoad ea n al b s k = k := by
  unfold checkedLoad
  rcases h with h | h <;> simp [h, hv]

theorem checkedLoad_misaligned (hb : b = false) (h : aligned ea al = false) :
    checkedLoad ea n al b s k = raiseOut (.loadAddressMisaligned ea) s := by
  unfold checkedLoad
  simp [hb, h]

theorem checkedLoad_invalid (h : b = true ∨ aligned ea al = true) (hv : s.accessValid ea n = false) :
    checkedLoad ea n al b s k = raiseOut (.loadAccessFault ea) s := by
  unfold checkedLoad
  rcases h with h | h <;> simp [h, hv]

theorem checkedStore_passes (h : b = true ∨ aligned ea al = true) (hv : s.accessValid ea n = true)
    (ht : s.avoidsText ea n = true) : checkedStore ea n al b s f k = k := by
  unfold checkedStore
  rcases h with h | h <;> simp [h, hv, ht]

theorem checkedStore_misaligned (hb : b = false) (h : aligned ea al = false) :
    checkedStore ea n al b s f k = raiseOut (.storeAddressMisaligned ea) s := by
  unfold checkedStore
  simp [hb, h]

theorem checkedStore_invalid (h : b = true ∨ aligned ea al = true) (hv : s.accessValid ea n = false) :
    checkedStore ea n al b s f k = f := by
  unfold checkedStore
  rcases h with h | h <;> simp [h, hv]

theorem checkedStore_text (h : b = true ∨ aligned ea al = true) (hv : s.accessValid ea n = true)
    (ht : s.avoidsText ea n = false) : checkedStore ea n al b s f k = .refused (.storeToText ea) := by
  unfold checkedStore
  rcases h with h | h <;> simp [h, hv, ht]

/-- Everything the checks of a store can answer. -/
theorem checkedStore_cases : checkedStore ea n al b s f k = raiseOut (.storeAddressMisaligned ea) s ∨
    (s.accessValid ea n = false ∧ checkedStore ea n al b s f k = f) ∨
    (s.avoidsText ea n = false ∧ checkedStore ea n al b s f k = .refused (.storeToText ea)) ∨
    checkedStore ea n al b s f k = k := by
  unfold checkedStore
  split
  · exact .inl rfl
  · split
    · next h => exact .inr (.inl ⟨by simpa using h, rfl⟩)
    · split
      · next h => exact .inr (.inr (.inl ⟨by simpa using h, rfl⟩))
      · exact .inr (.inr (.inr rfl))

/-- The memory a pair store can leave when it faults: as before, or with the valid half stored (R48). -/
theorem State.storeValidHalf_cases (s : State) (ea lo hi : Word) :
    (s.accessValid ea 8 = true ∧ s.storeValidHalf ea lo hi = s.memWrite ea lo 8) ∨
    (s.accessValid (byteAddr ea 8) 8 = true ∧ s.storeValidHalf ea lo hi = s.memWrite (byteAddr ea 8) hi 8) ∨
    s.storeValidHalf ea lo hi = s := by
  unfold State.storeValidHalf
  split
  · next h => exact .inl ⟨h, rfl⟩
  · split
    · next h => exact .inr (.inl ⟨h, rfl⟩)
    · exact .inr (.inr rfl)

/-- An access with one invalid byte is not valid (R46). -/
theorem State.accessValid_eq_false {j : Nat} (hj : j < n) (h : memValid s.params (byteAddr ea j) = false) :
    s.accessValid ea n = false := by
  rw [Bool.eq_false_iff]
  intro hc
  have := allBytes_iff.1 hc j hj
  rw [h] at this
  cases this

/-- An access with one byte in the program text does not avoid it (R54). -/
theorem State.avoidsText_eq_false {j : Nat} (hj : j < n) (h : inText s.params (byteAddr ea j) = true) :
    s.avoidsText ea n = false := by
  rw [Bool.eq_false_iff]
  intro hc
  have := allBytes_iff.1 hc j hj
  simp [h] at this

/-- A shorter access at the same address is valid too. -/
theorem State.accessValid_le {m : Nat} (h : n ≤ m) (hv : s.accessValid ea m = true) : s.accessValid ea n = true :=
  allBytes_iff.2 fun j hj => allBytes_iff.1 hv j (by omega)

/-- A shorter access at the same address avoids the text too. -/
theorem State.avoidsText_le {m : Nat} (h : n ≤ m) (hv : s.avoidsText ea m = true) : s.avoidsText ea n = true :=
  allBytes_iff.2 fun j hj => allBytes_iff.1 hv j (by omega)

/-- A bit of a value read from memory is a bit of one byte (R41). -/
theorem State.getLsbD_memRead (s : State) (ea : Word) {n j i : Nat} (hn : n ≤ 8) (hj : j < n) (hi : i < 8) :
    (s.memRead ea n).getLsbD (8 * j + i) = (s.readByte (byteAddr ea j)).getLsbD i := by
  rw [← lane_memRead s ea hn hj, getLsbD_lane]
  simp [hi]

end Sys2Proof.Machine
end

