-- ==== Sys2Proof/Laws/Decode.lean ====
section
/-! SUPPORT. The laws of instruction words, their fields and their bytes. -/

set_option maxRecDepth 8000

namespace Sys2Proof

/-- Cutting a word made of fields gives the fields back. -/
theorem fieldsOf_word (F : Fields) : fieldsOf F.word = F := by
  obtain ⟨a, b, c, d, e, f⟩ := F
  simp only [fieldsOf, Fields.word, Fields.mk.injEq]
  refine ⟨?_, ?_, ?_, ?_, ?_, ?_⟩ <;>
  · apply BitVec.eq_of_getLsbD_eq
    intro i hi
    simp only [BitVec.getLsbD_extractLsb', BitVec.getLsbD_append]
    repeat' split
    all_goals first
      | omega
      | (simp only [hi, decide_true, Bool.true_and]; congr 1; omega)

/-- Putting the fields of a word together gives the word back. -/
theorem word_fieldsOf (w : InsnWord) : (fieldsOf w).word = w := by
  apply BitVec.eq_of_getLsbD_eq
  intro i hi
  simp only [fieldsOf, Fields.word, BitVec.getLsbD_extractLsb', BitVec.getLsbD_append]
  repeat' split
  all_goals
    first
      | omega
      | (rw [show ∀ p : Prop, [Decidable p] → p → decide p = true from fun p _ h => decide_eq_true h]
         · simp only [Bool.true_and]; congr 1; omega
         · omega)

/-- The two parts of a 12-bit immediate make it up (R66, R67). -/
theorem imm12_parts (imm : BitVec 12) : imm.extractLsb' 5 7 ++ imm.extractLsb' 0 5 = imm := by
  apply BitVec.eq_of_getLsbD_eq
  intro i hi
  simp only [BitVec.getLsbD_append, BitVec.getLsbD_extractLsb']
  split
  · simp [*]
  · have : i - 5 < 7 := by omega
    have h2 : 5 + (i - 5) = i := by omega
    simp [this, h2]

/-- Decoding a word made of fields goes by the fields. -/
theorem decode_word (F : Fields) : decode F.word = decodeFields F := by rw [decode, fieldsOf_word]

theorem XRm.ofBits_of_narrow {rm : BitVec 3} (h : isWideRm rm = false) : XRm.ofBits rm = none := by
  revert h; revert rm; decide

theorem XRm.ofBits_bits (x : XRm) : XRm.ofBits x.bits = some x := by cases x <;> rfl

theorem extract_high5_of_rs3 (a : BitVec 5) (b : BitVec 2) : (a ++ b).extractLsb' 2 5 = a := by
  apply BitVec.eq_of_getLsbD_eq; intro i hi
  simp only [BitVec.getLsbD_append, BitVec.getLsbD_extractLsb', hi, decide_true, Bool.true_and]
  rw [if_neg (by omega)]; congr 1; omega

theorem extract_low2_of_rs3 (a : BitVec 5) (b : BitVec 2) : (a ++ b).extractLsb' 0 2 = b := by
  apply BitVec.eq_of_getLsbD_eq; intro i hi
  simp only [BitVec.getLsbD_append, BitVec.getLsbD_extractLsb', hi, decide_true, Bool.true_and]
  rw [if_pos (by omega)]; simp

theorem extract_high4_of_funct4 (a : BitVec 4) (b : BitVec 3) : (a ++ b).extractLsb' 3 4 = a := by
  apply BitVec.eq_of_getLsbD_eq; intro i hi
  simp only [BitVec.getLsbD_append, BitVec.getLsbD_extractLsb', hi, decide_true, Bool.true_and]
  rw [if_neg (by omega)]; congr 1; omega

theorem extract_low3_of_funct4 (a : BitVec 4) (b : BitVec 3) : (a ++ b).extractLsb' 0 3 = b := by
  apply BitVec.eq_of_getLsbD_eq; intro i hi
  simp only [BitVec.getLsbD_append, BitVec.getLsbD_extractLsb', hi, decide_true, Bool.true_and]
  rw [if_pos (by omega)]; simp
/-- The two parts of Imm8 make it up (R68). -/
theorem imm8_parts (imm : BitVec 8) : imm.extractLsb' 5 3 ++ imm.extractLsb' 0 5 = imm := by
  apply BitVec.eq_of_getLsbD_eq
  intro i hi
  simp only [BitVec.getLsbD_append, BitVec.getLsbD_extractLsb']
  split
  · simp [*]
  · have : i - 5 < 3 := by omega
    have h2 : 5 + (i - 5) = i := by omega
    simp [this, h2]

/-- The opcode field of a word made of fields is the opcode (R60, R61). -/
theorem opcode_word (F : Fields) : F.word.extractLsb' 0 7 = F.op := congrArg Fields.op (fieldsOf_word F)

/-- The bytes of a word, as they lie in memory, decode to what the word decodes to. -/
theorem decodeBytes_wordBytes (w : InsnWord) : decodeBytes (wordBytes w) = decode w := by
  show decode _ = decode w
  congr 1
  apply BitVec.eq_of_getLsbD_eq
  intro i hi
  simp only [BitVec.getLsbD_append, BitVec.getLsbD_extractLsb']
  split
  · simp [*]
  · split
    · next h1 h2 => have : 8 + (i - 8) = i := by omega
                    simp [this]; omega
    · split
      · next h1 h2 h3 => have : 16 + (i - 8 - 8) = i := by omega
                         simp [this]; omega
      · have : 24 + (i - 8 - 8 - 8) = i := by omega
        simp [this]; omega

end Sys2Proof
end

