-- ==== Sys2Proof/Laws/Exec.lean ====
section
/-! SUPPORT. What `exec` runs for each instruction, one equation per constructor. -/

namespace Sys2Proof.Machine

variable (s : State)

theorem exec_flh (rd : FReg) (rs1 : XReg) (imm : BitVec 12) :
    exec (.flh rd rs1 imm) s = loadOne 2 (fun v => nanbox (lane 16 0 v)) rd rs1 imm s := rfl

theorem exec_flw (rd : FReg) (rs1 : XReg) (imm : BitVec 12) :
    exec (.flw rd rs1 imm) s = loadOne 4 (fun v => nanbox (lane 32 0 v)) rd rs1 imm s := rfl

theorem exec_fld (rd : FReg) (rs1 : XReg) (imm : BitVec 12) :
    exec (.fld rd rs1 imm) s = loadOne 8 (fun v => v) rd rs1 imm s := rfl

theorem exec_fsh (rs1 : XReg) (imm : BitVec 12) (rs2 : FReg) :
    exec (.fsh rs1 imm rs2) s = storeOne 2 rs1 imm rs2 s := rfl

theorem exec_fsw (rs1 : XReg) (imm : BitVec 12) (rs2 : FReg) :
    exec (.fsw rs1 imm rs2) s = storeOne 4 rs1 imm rs2 s := rfl

theorem exec_fsd (rs1 : XReg) (imm : BitVec 12) (rs2 : FReg) :
    exec (.fsd rs1 imm rs2) s = storeOne 8 rs1 imm rs2 s := rfl

theorem exec_flx (rd : FReg) (rs1 : XReg) (imm : BitVec 12) : exec (.flx rd rs1 imm) s = execFlx rd rs1 imm s := rfl

theorem exec_fsx (rs1 : XReg) (imm : BitVec 12) (rs2 : FReg) :
    exec (.fsx rs1 imm rs2) s = execFsx rs1 imm rs2 s := rfl

theorem exec_paddS (rd rs1 rs2 : FReg) (rm : BitVec 3) :
    exec (.paddS rd rs1 rs2 rm) s = arith64 (.paddS rd rs1 rs2 rm) .add .S rd rs1 rs2 rm s := rfl

theorem exec_psubS (rd rs1 rs2 : FReg) (rm : BitVec 3) :
    exec (.psubS rd rs1 rs2 rm) s = arith64 (.psubS rd rs1 rs2 rm) .sub .S rd rs1 rs2 rm s := rfl

theorem exec_pmulS (rd rs1 rs2 : FReg) (rm : BitVec 3) :
    exec (.pmulS rd rs1 rs2 rm) s = arith64 (.pmulS rd rs1 rs2 rm) .mul .S rd rs1 rs2 rm s := rfl

theorem exec_paddH (rd rs1 rs2 : FReg) (rm : BitVec 3) :
    exec (.paddH rd rs1 rs2 rm) s = arith64 (.paddH rd rs1 rs2 rm) .add .H rd rs1 rs2 rm s := rfl

theorem exec_psubH (rd rs1 rs2 : FReg) (rm : BitVec 3) :
    exec (.psubH rd rs1 rs2 rm) s = arith64 (.psubH rd rs1 rs2 rm) .sub .H rd rs1 rs2 rm s := rfl

theorem exec_pmulH (rd rs1 rs2 : FReg) (rm : BitVec 3) :
    exec (.pmulH rd rs1 rs2 rm) s = arith64 (.pmulH rd rs1 rs2 rm) .mul .H rd rs1 rs2 rm s := rfl

theorem exec_pdivS (rd rs1 rs2 : FReg) (rm : BitVec 3) :
    exec (.pdivS rd rs1 rs2 rm) s = packedDivide (.pdivS rd rs1 rs2 rm) .S rd rs1 rs2 rm s := rfl

theorem exec_pdivH (rd rs1 rs2 : FReg) (rm : BitVec 3) :
    exec (.pdivH rd rs1 rs2 rm) s = packedDivide (.pdivH rd rs1 rs2 rm) .H rd rs1 rs2 rm s := rfl

theorem exec_paddxS (rd rs1 rs2 : FReg) (rm : XRm) :
    exec (.paddxS rd rs1 rs2 rm) s = arithX (.paddxS rd rs1 rs2 rm) .add .S rd rs1 rs2 rm s := rfl

theorem exec_psubxS (rd rs1 rs2 : FReg) (rm : XRm) :
    exec (.psubxS rd rs1 rs2 rm) s = arithX (.psubxS rd rs1 rs2 rm) .sub .S rd rs1 rs2 rm s := rfl

theorem exec_pmulxS (rd rs1 rs2 : FReg) (rm : XRm) :
    exec (.pmulxS rd rs1 rs2 rm) s = arithX (.pmulxS rd rs1 rs2 rm) .mul .S rd rs1 rs2 rm s := rfl

theorem exec_paddxD (rd rs1 rs2 : FReg) (rm : XRm) :
    exec (.paddxD rd rs1 rs2 rm) s = arithX (.paddxD rd rs1 rs2 rm) .add .D rd rs1 rs2 rm s := rfl

theorem exec_faddD (rd rs1 rs2 : FReg) (rm : BitVec 3) :
    exec (.faddD rd rs1 rs2 rm) s = arith64 (.faddD rd rs1 rs2 rm) .add .D rd rs1 rs2 rm s := rfl

theorem exec_psubxD (rd rs1 rs2 : FReg) (rm : XRm) :
    exec (.psubxD rd rs1 rs2 rm) s = arithX (.psubxD rd rs1 rs2 rm) .sub .D rd rs1 rs2 rm s := rfl

theorem exec_fsubD (rd rs1 rs2 : FReg) (rm : BitVec 3) :
    exec (.fsubD rd rs1 rs2 rm) s = arith64 (.fsubD rd rs1 rs2 rm) .sub .D rd rs1 rs2 rm s := rfl

theorem exec_pmulxD (rd rs1 rs2 : FReg) (rm : XRm) :
    exec (.pmulxD rd rs1 rs2 rm) s = arithX (.pmulxD rd rs1 rs2 rm) .mul .D rd rs1 rs2 rm s := rfl

theorem exec_fmulD (rd rs1 rs2 : FReg) (rm : BitVec 3) :
    exec (.fmulD rd rs1 rs2 rm) s = arith64 (.fmulD rd rs1 rs2 rm) .mul .D rd rs1 rs2 rm s := rfl

theorem exec_paddxH (rd rs1 rs2 : FReg) (rm : XRm) :
    exec (.paddxH rd rs1 rs2 rm) s = arithX (.paddxH rd rs1 rs2 rm) .add .H rd rs1 rs2 rm s := rfl

theorem exec_psubxH (rd rs1 rs2 : FReg) (rm : XRm) :
    exec (.psubxH rd rs1 rs2 rm) s = arithX (.psubxH rd rs1 rs2 rm) .sub .H rd rs1 rs2 rm s := rfl

theorem exec_pmulxH (rd rs1 rs2 : FReg) (rm : XRm) :
    exec (.pmulxH rd rs1 rs2 rm) s = arithX (.pmulxH rd rs1 rs2 rm) .mul .H rd rs1 rs2 rm s := rfl

theorem exec_pdivxS (rd rs1 rs2 : FReg) (rm : XRm) :
    exec (.pdivxS rd rs1 rs2 rm) s = arithX (.pdivxS rd rs1 rs2 rm) .div .S rd rs1 rs2 rm s := rfl

theorem exec_pdivxD (rd rs1 rs2 : FReg) (rm : XRm) :
    exec (.pdivxD rd rs1 rs2 rm) s = arithX (.pdivxD rd rs1 rs2 rm) .div .D rd rs1 rs2 rm s := rfl

theorem exec_fdivD (rd rs1 rs2 : FReg) (rm : BitVec 3) :
    exec (.fdivD rd rs1 rs2 rm) s = arith64 (.fdivD rd rs1 rs2 rm) .div .D rd rs1 rs2 rm s := rfl

theorem exec_pdivxH (rd rs1 rs2 : FReg) (rm : XRm) :
    exec (.pdivxH rd rs1 rs2 rm) s = arithX (.pdivxH rd rs1 rs2 rm) .div .H rd rs1 rs2 rm s := rfl

theorem exec_psgnjS (rd rs1 rs2 : FReg) :
    exec (.psgnjS rd rs1 rs2) s = s.finishF rd (sgnj .S (s.getF rs1) (s.getF rs2)) := rfl

theorem exec_psgnjnS (rd rs1 rs2 : FReg) :
    exec (.psgnjnS rd rs1 rs2) s = s.finishF rd (sgnjn .S (s.getF rs1) (s.getF rs2)) := rfl

theorem exec_psgnjxS (rd rs1 rs2 : FReg) :
    exec (.psgnjxS rd rs1 rs2) s = s.finishF rd (sgnjx .S (s.getF rs1) (s.getF rs2)) := rfl

theorem exec_fsgnjD (rd rs1 rs2 : FReg) :
    exec (.fsgnjD rd rs1 rs2) s = s.finishF rd (sgnj .D (s.getF rs1) (s.getF rs2)) := rfl

theorem exec_fsgnjnD (rd rs1 rs2 : FReg) :
    exec (.fsgnjnD rd rs1 rs2) s = s.finishF rd (sgnjn .D (s.getF rs1) (s.getF rs2)) := rfl

theorem exec_fsgnjxD (rd rs1 rs2 : FReg) :
    exec (.fsgnjxD rd rs1 rs2) s = s.finishF rd (sgnjx .D (s.getF rs1) (s.getF rs2)) := rfl

theorem exec_psgnjH (rd rs1 rs2 : FReg) :
    exec (.psgnjH rd rs1 rs2) s = s.finishF rd (sgnj .H (s.getF rs1) (s.getF rs2)) := rfl

theorem exec_psgnjnH (rd rs1 rs2 : FReg) :
    exec (.psgnjnH rd rs1 rs2) s = s.finishF rd (sgnjn .H (s.getF rs1) (s.getF rs2)) := rfl

theorem exec_psgnjxH (rd rs1 rs2 : FReg) :
    exec (.psgnjxH rd rs1 rs2) s = s.finishF rd (sgnjx .H (s.getF rs1) (s.getF rs2)) := rfl

theorem exec_pminS (rd rs1 rs2 : FReg) :
    exec (.pminS rd rs1 rs2) s = packedSelect .S ((numericsOf s.params).min .S) rd rs1 rs2 s := rfl

theorem exec_pmaxS (rd rs1 rs2 : FReg) :
    exec (.pmaxS rd rs1 rs2) s = packedSelect .S ((numericsOf s.params).max .S) rd rs1 rs2 s := rfl

theorem exec_pminH (rd rs1 rs2 : FReg) :
    exec (.pminH rd rs1 rs2) s = packedSelect .H ((numericsOf s.params).min .H) rd rs1 rs2 s := rfl

theorem exec_pmaxH (rd rs1 rs2 : FReg) :
    exec (.pmaxH rd rs1 rs2) s = packedSelect .H ((numericsOf s.params).max .H) rd rs1 rs2 s := rfl

theorem exec_fpkbbH (rd rs1 rs2 : FReg) :
    exec (.fpkbbH rd rs1 rs2) s = packH (.fpkbbH rd rs1 rs2) false false rd rs1 rs2 s := rfl

theorem exec_fpkbtH (rd rs1 rs2 : FReg) :
    exec (.fpkbtH rd rs1 rs2) s = packH (.fpkbtH rd rs1 rs2) false true rd rs1 rs2 s := rfl

theorem exec_fpktbH (rd rs1 rs2 : FReg) :
    exec (.fpktbH rd rs1 rs2) s = packH (.fpktbH rd rs1 rs2) true false rd rs1 rs2 s := rfl

theorem exec_fpkttH (rd rs1 rs2 : FReg) :
    exec (.fpkttH rd rs1 rs2) s = packH (.fpkttH rd rs1 rs2) true true rd rs1 rs2 s := rfl

theorem exec_fpkbbS (rd rs1 rs2 : FReg) :
    exec (.fpkbbS rd rs1 rs2) s = packS (.fpkbbS rd rs1 rs2) false false rd rs1 rs2 s := rfl

theorem exec_fpkbtS (rd rs1 rs2 : FReg) :
    exec (.fpkbtS rd rs1 rs2) s = packS (.fpkbtS rd rs1 rs2) false true rd rs1 rs2 s := rfl

theorem exec_fpktbS (rd rs1 rs2 : FReg) :
    exec (.fpktbS rd rs1 rs2) s = packS (.fpktbS rd rs1 rs2) true false rd rs1 rs2 s := rfl

theorem exec_fpkttS (rd rs1 rs2 : FReg) :
    exec (.fpkttS rd rs1 rs2) s = packS (.fpkttS rd rs1 rs2) true true rd rs1 rs2 s := rfl

theorem exec_fcvtSD (rd rs1 : FReg) (rm : BitVec 3) :
    exec (.fcvtSD rd rs1 rm) s = cvtFromD (.fcvtSD rd rs1 rm) .S rd rs1 rm s := rfl

theorem exec_fcvtDS (rd rs1 : FReg) (rm : BitVec 3) :
    exec (.fcvtDS rd rs1 rm) s = cvtToD (.fcvtDS rd rs1 rm) .S rd rs1 rm s := rfl

theorem exec_pcvtSH (rd rs1 : FReg) (rm : BitVec 3) :
    exec (.pcvtSH rd rs1 rm) s = widenLow (.pcvtSH rd rs1 rm) .H rd rs1 rm s := rfl

theorem exec_pcvtHS (rd rs1 : FReg) (rm : BitVec 3) :
    exec (.pcvtHS rd rs1 rm) s = narrowLow (.pcvtHS rd rs1 rm) .H rd rs1 rm s := rfl

theorem exec_fcvtDH (rd rs1 : FReg) (rm : BitVec 3) :
    exec (.fcvtDH rd rs1 rm) s = cvtToD (.fcvtDH rd rs1 rm) .H rd rs1 rm s := rfl

theorem exec_fcvtHD (rd rs1 : FReg) (rm : BitVec 3) :
    exec (.fcvtHD rd rs1 rm) s = cvtFromD (.fcvtHD rd rs1 rm) .H rd rs1 rm s := rfl

theorem exec_pcvtSBf16 (rd rs1 : FReg) (rm : BitVec 3) :
    exec (.pcvtSBf16 rd rs1 rm) s = widenLow (.pcvtSBf16 rd rs1 rm) .B rd rs1 rm s := rfl

theorem exec_pcvtBf16S (rd rs1 : FReg) (rm : BitVec 3) :
    exec (.pcvtBf16S rd rs1 rm) s = narrowLow (.pcvtBf16S rd rs1 rm) .B rd rs1 rm s := rfl

theorem exec_fcvtDBf16 (rd rs1 : FReg) (rm : BitVec 3) :
    exec (.fcvtDBf16 rd rs1 rm) s = cvtToD (.fcvtDBf16 rd rs1 rm) .B rd rs1 rm s := rfl

theorem exec_fcvtBf16D (rd rs1 : FReg) (rm : BitVec 3) :
    exec (.fcvtBf16D rd rs1 rm) s = cvtFromD (.fcvtBf16D rd rs1 rm) .B rd rs1 rm s := rfl

theorem exec_pcvthiSH (rd rs1 : FReg) (rm : BitVec 3) :
    exec (.pcvthiSH rd rs1 rm) s = widenHigh (.pcvthiSH rd rs1 rm) .H rd rs1 rm s := rfl

theorem exec_pcvthiSBf16 (rd rs1 : FReg) (rm : BitVec 3) :
    exec (.pcvthiSBf16 rd rs1 rm) s = widenHigh (.pcvthiSBf16 rd rs1 rm) .B rd rs1 rm s := rfl

theorem exec_pcvtxSH (rd rs1 : FReg) (rm : XRm) :
    exec (.pcvtxSH rd rs1 rm) s = widenX (.pcvtxSH rd rs1 rm) .H rd rs1 rm s := rfl

theorem exec_pcvtxHS (rd rs1 : FReg) (rm : XRm) :
    exec (.pcvtxHS rd rs1 rm) s = narrowX (.pcvtxHS rd rs1 rm) .H rd rs1 rm s := rfl

theorem exec_pcvtxSBf16 (rd rs1 : FReg) (rm : XRm) :
    exec (.pcvtxSBf16 rd rs1 rm) s = widenX (.pcvtxSBf16 rd rs1 rm) .B rd rs1 rm s := rfl

theorem exec_pcvtxBf16S (rd rs1 : FReg) (rm : XRm) :
    exec (.pcvtxBf16S rd rs1 rm) s = narrowX (.pcvtxBf16S rd rs1 rm) .B rd rs1 rm s := rfl

theorem exec_psqrtS (rd rs1 : FReg) (rm : BitVec 3) :
    exec (.psqrtS rd rs1 rm) s = withRoundingOrX (.psqrtS rd rs1 rm) rm s (fun x => sqrtX (.psqrtS rd rs1 rm) .S rd rs1 x s) fun m => sqrtBody (.psqrtS rd rs1 rm) .S rd rs1 m s := rfl

theorem exec_fsqrtD (rd rs1 : FReg) (rm : BitVec 3) : exec (.fsqrtD rd rs1 rm) s = execFsqrtD rd rs1 rm s := rfl

theorem exec_psqrtH (rd rs1 : FReg) (rm : BitVec 3) :
    exec (.psqrtH rd rs1 rm) s = withRounding (.psqrtH rd rs1 rm) rm s fun m => sqrtBody (.psqrtH rd rs1 rm) .H rd rs1 m s := rfl

theorem exec_psqrtxS (rd rs1 : FReg) (rm : XRm) :
    exec (.psqrtxS rd rs1 rm) s = sqrtX (.psqrtxS rd rs1 rm) .S rd rs1 rm s := rfl

theorem exec_psqrtxD (rd rs1 : FReg) (rm : XRm) :
    exec (.psqrtxD rd rs1 rm) s = sqrtX (.psqrtxD rd rs1 rm) .D rd rs1 rm s := rfl

theorem exec_prcpaS (rd rs1 : FReg) :
    exec (.prcpaS rd rs1) s = helper (.prcpaS rd rs1) .S ((numericsOf s.params).rcpa .S) rd rs1 s := rfl

theorem exec_frcpaD (rd rs1 : FReg) :
    exec (.frcpaD rd rs1) s = helper (.frcpaD rd rs1) .D ((numericsOf s.params).rcpa .D) rd rs1 s := rfl

theorem exec_prcpaH (rd rs1 : FReg) :
    exec (.prcpaH rd rs1) s = helper (.prcpaH rd rs1) .H ((numericsOf s.params).rcpa .H) rd rs1 s := rfl

theorem exec_psqrtaS (rd rs1 : FReg) :
    exec (.psqrtaS rd rs1) s = helper (.psqrtaS rd rs1) .S ((numericsOf s.params).sqrta .S) rd rs1 s := rfl

theorem exec_fsqrtaD (rd rs1 : FReg) :
    exec (.fsqrtaD rd rs1) s = helper (.fsqrtaD rd rs1) .D ((numericsOf s.params).sqrta .D) rd rs1 s := rfl

theorem exec_psqrtaH (rd rs1 : FReg) :
    exec (.psqrtaH rd rs1) s = helper (.psqrtaH rd rs1) .H ((numericsOf s.params).sqrta .H) rd rs1 s := rfl

theorem exec_pmaddS (rd rs1 rs2 rs3 : FReg) (rm : BitVec 3) :
    exec (.pmaddS rd rs1 rs2 rs3 rm) s = multiplyAdd (.pmaddS rd rs1 rs2 rs3 rm) .S false false rd rs1 rs2 rs3 rm s := rfl

theorem exec_pmaddH (rd rs1 rs2 rs3 : FReg) (rm : BitVec 3) :
    exec (.pmaddH rd rs1 rs2 rs3 rm) s = multiplyAdd (.pmaddH rd rs1 rs2 rs3 rm) .H false false rd rs1 rs2 rs3 rm s := rfl

theorem exec_pmsubS (rd rs1 rs2 rs3 : FReg) (rm : BitVec 3) :
    exec (.pmsubS rd rs1 rs2 rs3 rm) s = multiplyAdd (.pmsubS rd rs1 rs2 rs3 rm) .S false true rd rs1 rs2 rs3 rm s := rfl

theorem exec_pmsubH (rd rs1 rs2 rs3 : FReg) (rm : BitVec 3) :
    exec (.pmsubH rd rs1 rs2 rs3 rm) s = multiplyAdd (.pmsubH rd rs1 rs2 rs3 rm) .H false true rd rs1 rs2 rs3 rm s := rfl

theorem exec_pnmsubS (rd rs1 rs2 rs3 : FReg) (rm : BitVec 3) :
    exec (.pnmsubS rd rs1 rs2 rs3 rm) s = multiplyAdd (.pnmsubS rd rs1 rs2 rs3 rm) .S true false rd rs1 rs2 rs3 rm s := rfl

theorem exec_pnmsubH (rd rs1 rs2 rs3 : FReg) (rm : BitVec 3) :
    exec (.pnmsubH rd rs1 rs2 rs3 rm) s = multiplyAdd (.pnmsubH rd rs1 rs2 rs3 rm) .H true false rd rs1 rs2 rs3 rm s := rfl

theorem exec_pnmaddS (rd rs1 rs2 rs3 : FReg) (rm : BitVec 3) :
    exec (.pnmaddS rd rs1 rs2 rs3 rm) s = multiplyAdd (.pnmaddS rd rs1 rs2 rs3 rm) .S true true rd rs1 rs2 rs3 rm s := rfl

theorem exec_pnmaddH (rd rs1 rs2 rs3 : FReg) (rm : BitVec 3) :
    exec (.pnmaddH rd rs1 rs2 rs3 rm) s = multiplyAdd (.pnmaddH rd rs1 rs2 rs3 rm) .H true true rd rs1 rs2 rs3 rm s := rfl

theorem exec_pack (rd rs1 rs2 : XReg) :
    exec (.pack rd rs1 rs2) s = misc2 (.pack rd rs1 rs2) (miscFnsOf s.params).pack rd rs1 rs2 s := rfl

theorem exec_packu (rd rs1 rs2 : XReg) :
    exec (.packu rd rs1 rs2) s = misc2 (.packu rd rs1 rs2) (miscFnsOf s.params).packu rd rs1 rs2 s := rfl

theorem exec_pshufW (rd rs1 : XReg) (imm : BitVec 8) : exec (.pshufW rd rs1 imm) s = execPshufW rd rs1 imm s := rfl

theorem exec_pfshufW (rd rs1 : FReg) (imm : BitVec 8) : exec (.pfshufW rd rs1 imm) s = execPfshufW rd rs1 imm s := rfl

theorem exec_pkbb16 (rd rs1 rs2 : XReg) :
    exec (.pkbb16 rd rs1 rs2) s = misc2 (.pkbb16 rd rs1 rs2) (miscFnsOf s.params).pkbb16 rd rs1 rs2 s := rfl

theorem exec_pkbt16 (rd rs1 rs2 : XReg) :
    exec (.pkbt16 rd rs1 rs2) s = misc2 (.pkbt16 rd rs1 rs2) (miscFnsOf s.params).pkbt16 rd rs1 rs2 s := rfl

theorem exec_pktb16 (rd rs1 rs2 : XReg) :
    exec (.pktb16 rd rs1 rs2) s = misc2 (.pktb16 rd rs1 rs2) (miscFnsOf s.params).pktb16 rd rs1 rs2 s := rfl

theorem exec_pktt16 (rd rs1 rs2 : XReg) :
    exec (.pktt16 rd rs1 rs2) s = misc2 (.pktt16 rd rs1 rs2) (miscFnsOf s.params).pktt16 rd rs1 rs2 s := rfl

theorem exec_pkbb32 (rd rs1 rs2 : XReg) :
    exec (.pkbb32 rd rs1 rs2) s = misc2 (.pkbb32 rd rs1 rs2) (miscFnsOf s.params).pkbb32 rd rs1 rs2 s := rfl

theorem exec_pkbt32 (rd rs1 rs2 : XReg) :
    exec (.pkbt32 rd rs1 rs2) s = misc2 (.pkbt32 rd rs1 rs2) (miscFnsOf s.params).pkbt32 rd rs1 rs2 s := rfl

theorem exec_pktb32 (rd rs1 rs2 : XReg) :
    exec (.pktb32 rd rs1 rs2) s = misc2 (.pktb32 rd rs1 rs2) (miscFnsOf s.params).pktb32 rd rs1 rs2 s := rfl

theorem exec_pktt32 (rd rs1 rs2 : XReg) :
    exec (.pktt32 rd rs1 rs2) s = misc2 (.pktt32 rd rs1 rs2) (miscFnsOf s.params).pktt32 rd rs1 rs2 s := rfl

theorem exec_fleS (rd : XReg) (rs1 rs2 : FReg) :
    exec (.fleS rd rs1 rs2) s = compareLow .S ((numericsOf s.params).le .S) rd rs1 rs2 s := rfl

theorem exec_fltS (rd : XReg) (rs1 rs2 : FReg) :
    exec (.fltS rd rs1 rs2) s = compareLow .S ((numericsOf s.params).lt .S) rd rs1 rs2 s := rfl

theorem exec_feqS (rd : XReg) (rs1 rs2 : FReg) :
    exec (.feqS rd rs1 rs2) s = compareLow .S ((numericsOf s.params).eq .S) rd rs1 rs2 s := rfl

theorem exec_fleD (rd : XReg) (rs1 rs2 : FReg) :
    exec (.fleD rd rs1 rs2) s = compareLow .D ((numericsOf s.params).le .D) rd rs1 rs2 s := rfl

theorem exec_fltD (rd : XReg) (rs1 rs2 : FReg) :
    exec (.fltD rd rs1 rs2) s = compareLow .D ((numericsOf s.params).lt .D) rd rs1 rs2 s := rfl

theorem exec_feqD (rd : XReg) (rs1 rs2 : FReg) :
    exec (.feqD rd rs1 rs2) s = compareLow .D ((numericsOf s.params).eq .D) rd rs1 rs2 s := rfl

theorem exec_fleH (rd : XReg) (rs1 rs2 : FReg) :
    exec (.fleH rd rs1 rs2) s = compareLow .H ((numericsOf s.params).le .H) rd rs1 rs2 s := rfl

theorem exec_fltH (rd : XReg) (rs1 rs2 : FReg) :
    exec (.fltH rd rs1 rs2) s = compareLow .H ((numericsOf s.params).lt .H) rd rs1 rs2 s := rfl

theorem exec_feqH (rd : XReg) (rs1 rs2 : FReg) :
    exec (.feqH rd rs1 rs2) s = compareLow .H ((numericsOf s.params).eq .H) rd rs1 rs2 s := rfl

theorem exec_fmvXD (rd : XReg) (rs1 : FReg) : exec (.fmvXD rd rs1) s = s.finishX rd (s.getF rs1) := rfl

theorem exec_fmvDX (rd : FReg) (rs1 : XReg) : exec (.fmvDX rd rs1) s = s.finishF rd (s.getX rs1) := rfl

theorem exec_sub (rd rs1 rs2 : XReg) : exec (.sub rd rs1 rs2) s = s.finishX rd (s.getX rs1 - s.getX rs2) := rfl

theorem exec_jalr (rd rs1 : XReg) (imm : BitVec 12) : exec (.jalr rd rs1 imm) s = execJalr rd rs1 imm s := rfl

theorem exec_addi (rd rs1 : XReg) (imm : BitVec 12) :
    exec (.addi rd rs1 imm) s = s.finishX rd (s.getX rs1 + imm.signExtend 64) := rfl

end Sys2Proof.Machine
end

