-- ==== Sys2Proof/Laws/Effects.lean ====
section
/-! SUPPORT. One law per shared operation, and `exec_effect`, which says once everything an instruction can do: later
proofs take its cases instead of unfolding instructions. -/

namespace Sys2Proof.Machine

/-! ### Rounding modes (R14, R26) -/

theorem withRounding_narrow {i : Instr} {rm : BitVec 3} {s : State} {k : RMode → Result} {m : RMode}
    (h : s.rmMeaning rm = .narrow m) : withRounding i rm s k = k m := by
  simp only [withRounding, h]

theorem withRounding_wide {i : Instr} {rm : BitVec 3} {s : State} {k : RMode → Result} {x : XRm}
    (h : s.rmMeaning rm = .wide x) : withRounding i rm s k = illegal i s := by
  simp only [withRounding, h]

theorem withRounding_illegal {i : Instr} {rm : BitVec 3} {s : State} {k : RMode → Result}
    (h : s.rmMeaning rm = .illegal) : withRounding i rm s k = illegal i s := by
  simp only [withRounding, h]

theorem withRoundingOrX_narrow {i : Instr} {rm : BitVec 3} {s : State} {x : XRm → Result} {k : RMode → Result}
    {m : RMode} (h : s.rmMeaning rm = .narrow m) : withRoundingOrX i rm s x k = k m := by
  simp only [withRoundingOrX, h]

theorem withRoundingOrX_wide {i : Instr} {rm : BitVec 3} {s : State} {x : XRm → Result} {k : RMode → Result}
    {c : XRm} (h : s.rmMeaning rm = .wide c) : withRoundingOrX i rm s x k = x c := by
  simp only [withRoundingOrX, h]

theorem withRoundingOrX_illegal {i : Instr} {rm : BitVec 3} {s : State} {x : XRm → Result} {k : RMode → Result}
    (h : s.rmMeaning rm = .illegal) : withRoundingOrX i rm s x k = illegal i s := by
  simp only [withRoundingOrX, h]

theorem requiring_true {c : Bool} {i : Instr} {s : State} {k : Result} (h : c = true) : requiring c i s k = k := by
  simp only [requiring, h, if_true]

theorem requiring_false {c : Bool} {i : Instr} {s : State} {k : Result} (h : c = false) :
    requiring c i s k = illegal i s := by
  simp [requiring, h]

/-- The field is a 2x code exactly where `XRm.ofBits` says so (R14). -/
theorem rmMeaning_wide_iff {s : State} {rm : BitVec 3} {x : XRm} :
    s.rmMeaning rm = .wide x ↔ XRm.ofBits rm = some x := by
  simp only [State.rmMeaning, decodeRm]
  constructor
  · intro h
    split at h
    · next y hy => cases h; exact hy
    · split at h <;> cases h
  · intro h; simp only [h]

/-! ### What a finishing operation writes -/

theorem finishFp_writesF {i : Instr} {s : State} {rd : FReg} {v : Word} {fl : FpFlags} {P : Word → Prop}
    (h : exec i s = s.finishFp rd v fl) (hP : P v) : WritesF i s rd P fl := by
  refine ⟨_, h, ?_, ?_, ?_, ⟨?_, ?_, ?_, ?_, ?_⟩, ?_, ?_⟩
  · simpa using hP
  · simp
  · simp
  · intro r hr; simp at hr; simp [State.getF_setF_ne _ hr]
  · intro r _; simp
  · simp
  · simp
  · simp
  · intro a; simp
  · simp

theorem finishF_writesF {i : Instr} {s : State} {rd : FReg} {v : Word} {P : Word → Prop}
    (h : exec i s = s.finishF rd v) (hP : P v) : WritesF i s rd P 0#5 := by
  refine ⟨_, h, ?_, ?_, ?_, ⟨?_, ?_, ?_, ?_, ?_⟩, ?_, ?_⟩
  · simpa using hP
  · simp
  · simp
  · intro r hr; simp at hr; simp [State.getF_setF_ne _ hr]
  · intro r _; simp
  · simp
  · simp
  · simp
  · intro a; simp
  · simp

theorem setPair_writesPair {i : Instr} {s : State} {rd : FReg} {lo hi : Word} {P Q : Word → Prop}
    (h : exec i s = .next (s.setPair rd lo hi).advance) (hP : P lo) (hQ : Q hi) : WritesPair i s rd P Q 0#5 := by
  refine ⟨_, h, ?_, ?_, ?_, ?_, ⟨?_, ?_, ?_, ?_, ?_⟩, ?_, ?_⟩
  · simpa using hP
  · simpa using hQ
  · simp
  · simp
  · intro r hr
    simp only [List.mem_cons, List.not_mem_nil, or_false, not_or] at hr
    simp [State.getF_setPair_ne _ hr.1 hr.2]
  · intro r _; simp
  · simp
  · simp
  · simp
  · intro a; simp
  · simp

theorem finishPair_writesPair {i : Instr} {s : State} {rd : FReg} {lo hi : Word} {fl : FpFlags} {P Q : Word → Prop}
    (h : exec i s = s.finishPair rd lo hi fl) (hP : P lo) (hQ : Q hi) : WritesPair i s rd P Q fl := by
  refine ⟨_, h, ?_, ?_, ?_, ?_, ⟨?_, ?_, ?_, ?_, ?_⟩, ?_, ?_⟩
  · simpa using hP
  · simpa using hQ
  · simp
  · simp
  · intro r hr
    simp only [List.mem_cons, List.not_mem_nil, or_false, not_or] at hr
    simp [State.getF_setPair_ne _ hr.1 hr.2]
  · intro r _; simp
  · simp
  · simp
  · simp
  · intro a; simp
  · simp

theorem finishCmp_writesX {i : Instr} {s : State} {rd : XReg} {v : Word} {fl : FpFlags}
    (h : exec i s = s.finishCmp rd v fl) : WritesX i s rd v fl := by
  refine ⟨_, h, ?_, ?_, ?_, ⟨?_, ?_, ?_, ?_, ?_⟩, ?_, ?_⟩
  · by_cases hr : rd = 0#5
    · subst hr; simp
    · simp [State.getX_setX, hr]
  · simp
  · simp
  · intro r _; simp
  · intro r hr; simp at hr; simp [State.getX_setX_ne _ hr]
  · simp
  · simp
  · simp
  · intro a; simp
  · simp

theorem finishX_writesX {i : Instr} {s : State} {rd : XReg} {v : Word}
    (h : exec i s = s.finishX rd v) : WritesX i s rd v 0#5 := by
  refine ⟨_, h, ?_, ?_, ?_, ⟨?_, ?_, ?_, ?_, ?_⟩, ?_, ?_⟩
  · by_cases hr : rd = 0#5
    · subst hr; simp
    · simp [State.getX_setX, hr]
  · simp
  · simp
  · intro r _; simp
  · intro r hr; simp at hr; simp [State.getX_setX_ne _ hr]
  · simp
  · simp
  · simp
  · intro a; simp
  · simp

theorem memWrite_storesBytes {i : Instr} {s : State} {ea v : Word} {n : Nat} (hn : n ≤ 8)
    (h : exec i s = .next (s.memWrite ea v n).advance) : StoresBytes i s ea n fun k => lane 8 k v := by
  refine ⟨_, h, ?_, ?_, ?_, ?_, ⟨?_, ?_, ?_, ?_, ?_⟩⟩
  · intro k hk
    rw [State.readByte_advance, State.readByte_memWrite_in _ _ _ hk (by omega)]
  · intro a ha
    rw [State.readByte_advance, State.readByte_memWrite_out _ _ _ ha]
  all_goals simp

/-- The 16 bytes of a pair store. -/
theorem memWrite_pair_storesBytes {i : Instr} {s : State} {ea lo hi : Word}
    (h : exec i s = .next ((s.memWrite ea lo 8).memWrite (byteAddr ea 8) hi 8).advance) :
    StoresBytes i s ea 16 fun k => if k < 8 then lane 8 k lo else lane 8 (k - 8) hi := by
  refine ⟨_, h, ?_, ?_, ?_, ?_, ⟨?_, ?_, ?_, ?_, ?_⟩⟩
  · intro k hk
    rw [State.readByte_advance]
    by_cases h8 : k < 8
    · show _ = ite _ _ _
      rw [State.readByte_memWrite_out, State.readByte_memWrite_in _ _ _ h8 (by omega), if_pos h8]
      intro j hj e
      rw [byteAddr_add] at e
      have := byteAddr_inj (by omega) (by omega) e
      omega
    · have e : byteAddr ea k = byteAddr (byteAddr ea 8) (k - 8) := by
        rw [byteAddr_add, Nat.add_sub_cancel' (by omega)]
      show _ = ite _ _ _
      rw [e, State.readByte_memWrite_in _ _ _ (by omega) (by omega), if_neg h8]
  · intro a ha
    rw [State.readByte_advance, State.readByte_memWrite_out, State.readByte_memWrite_out]
    · exact fun k hk => ha k (by omega)
    · intro k hk; rw [byteAddr_add]; exact ha (8 + k) (by omega)
  all_goals simp

/-- The access fault of a pair store (R48, R108, R308). -/
theorem pairStoreFault_raises {i : Instr} {s : State} {ea lo hi : Word} (h : exec i s = pairStoreFault ea lo hi s) :
    RaisesInPairStore i s ea lo hi := by
  have unch : AtMostHalfStored s ea lo hi (s.raise (.storeAccessFault ea)) :=
    ⟨rfl, rfl, rfl, rfl, rfl, rfl, .inl ⟨fun a => rfl, rfl⟩⟩
  unfold pairStoreFault at h
  split at h
  · refine ⟨_, h, ?_, ?_⟩
    · rcases s.storeValidHalf_cases ea lo hi with ⟨_, e⟩ | ⟨_, e⟩ | e <;> simp [e]
    · rcases s.storeValidHalf_cases ea lo hi with ⟨hv, e⟩ | ⟨hv, e⟩ | e <;> rw [e]
      · refine ⟨by simp, by simp, by simp, by simp, by simp, by simp, .inr (.inl ⟨hv, fun k hk => ?_, fun a ha => ?_⟩)⟩
        · exact State.readByte_memWrite_in _ _ _ hk (by omega)
        · exact State.readByte_memWrite_out _ _ _ ha
      · refine ⟨by simp, by simp, by simp, by simp, by simp, by simp, .inr (.inr ⟨hv, fun k hk => ?_, fun a ha => ?_⟩)⟩
        · exact State.readByte_memWrite_in _ _ _ hk (by omega)
        · exact State.readByte_memWrite_out _ _ _ ha
      · exact unch
  · exact ⟨_, h, rfl, unch⟩

/-! ### Everything an instruction can do -/

/-- JALR. -/
def Instr.IsJump (i : Instr) : Prop := ∃ rd rs1 imm, i = .jalr rd rs1 imm

/-- One of the four stores. -/
def Instr.IsStore (i : Instr) : Prop :=
  ∃ rs1 imm rs2, i = .fsh rs1 imm rs2 ∨ i = .fsw rs1 imm rs2 ∨ i = .fsd rs1 imm rs2 ∨ i = .fsx rs1 imm rs2

/-- A store of `n` bytes at `ea` in the state `s`. -/
def Instr.StoresAt (i : Instr) (s : State) (ea : Word) (n : Nat) : Prop :=
  ∃ rs1 imm rs2, ea = s.ea rs1 imm ∧
    ((i = .fsh rs1 imm rs2 ∧ n = 2) ∨ (i = .fsw rs1 imm rs2 ∧ n = 4) ∨ (i = .fsd rs1 imm rs2 ∧ n = 8) ∨
      (i = .fsx rs1 imm rs2 ∧ n = 16))

theorem Instr.StoresAt.isStore {i : Instr} {s : State} {ea : Word} {n : Nat} : Instr.StoresAt i s ea n → Instr.IsStore i
  | ⟨a, b, c, _, h⟩ => ⟨a, b, c, h.imp And.left (.imp And.left (.imp And.left And.left))⟩

/-- The results instruction `i` can have in state `s`. -/
inductive Effect (i : Instr) (s : State) : Result → Prop where
  /-- it raises an exception -/
  | raise (e : Cause) : Effect i s (.next (s.raise e))
  /-- it writes one floating-point register and accrues flags -/
  | fp (rd : FReg) (v : Word) (fl : FpFlags) : Effect i s (.next ((s.setF rd v).accrue fl).advance)
  /-- it writes one floating-point register and no flag -/
  | f (rd : FReg) (v : Word) : Effect i s (.next (s.setF rd v).advance)
  /-- it writes a pair and accrues flags -/
  | pairFp (rd : FReg) (lo hi : Word) (fl : FpFlags) : Effect i s (.next ((s.setPair rd lo hi).accrue fl).advance)
  /-- it writes a pair and no flag -/
  | pair (rd : FReg) (lo hi : Word) : Effect i s (.next (s.setPair rd lo hi).advance)
  /-- it writes an integer register and accrues flags -/
  | cmp (rd : XReg) (v : Word) (fl : FpFlags) : Effect i s (.next ((s.setX rd v).accrue fl).advance)
  /-- it writes an integer register and no flag -/
  | x (rd : XReg) (v : Word) : Effect i s (.next (s.setX rd v).advance)
  /-- it links and jumps to a multiple of 4 -/
  | jump (rd : XReg) (v t : Word) (hi : Instr.IsJump i) (h : t.extractLsb' 0 2 = 0#2) : Effect i s (.next ((s.setX rd v).jump t))
  /-- it stores up to 8 bytes -/
  | store (ea v : Word) (n : Nat) (hi : Instr.IsStore i) (h : n ≤ 8) : Effect i s (.next (s.memWrite ea v n).advance)
  /-- it stores two doublewords -/
  | store2 (ea lo hi : Word) (h : Instr.IsStore i) :
    Effect i s (.next ((s.memWrite ea lo 8).memWrite (byteAddr ea 8) hi 8).advance)
  /-- it is a pair store that has stored one doubleword and raises an access fault -/
  | storeRaise (ea a v : Word) (hi : Instr.StoresAt i s ea 16) :
    Effect i s (.next ((s.memWrite a v 8).raise (.storeAccessFault ea)))
  /-- it is a store to the program text -/
  | refuse (ea : Word) (n : Nat) (hi : Instr.StoresAt i s ea n) (ht : s.avoidsText ea n = false) :
    Effect i s (.refused (.storeToText ea))

variable {s : State} {i j : Instr}

theorem Effect.illegal (j : Instr) : Effect i s (illegal j s) := .raise _

theorem Effect.requiring {c : Bool} {k : Result} (h : Effect i s k) : Effect i s (requiring c j s k) := by
  unfold Machine.requiring; split
  · exact h
  · exact .illegal j

theorem Effect.withRounding {rm : BitVec 3} {k : RMode → Result} (h : ∀ m, Effect i s (k m)) :
    Effect i s (withRounding j rm s k) := by
  unfold Machine.withRounding; split
  · exact h _
  · exact .illegal j
  · exact .illegal j

theorem Effect.withRoundingOrX {rm : BitVec 3} {x : XRm → Result} {k : RMode → Result} (hx : ∀ c, Effect i s (x c))
    (h : ∀ m, Effect i s (k m)) : Effect i s (withRoundingOrX j rm s x k) := by
  unfold Machine.withRoundingOrX; split
  · exact h _
  · exact hx _
  · exact .illegal j

theorem Effect.checkedLoad {ea : Word} {n al : Nat} {b : Bool} {k : Result} (h : Effect i s k) :
    Effect i s (checkedLoad ea n al b s k) := by
  unfold Machine.checkedLoad; split
  · exact .raise _
  · split
    · exact .raise _
    · exact h

theorem Effect.checkedStore {ea : Word} {n al : Nat} {b : Bool} {f k : Result}
    (hi : Instr.StoresAt i s ea n) (hf : Effect i s f) (h : Effect i s k) : Effect i s (checkedStore ea n al b s f k) := by
  rcases checkedStore_cases (s := s) (ea := ea) (n := n) (al := al) (b := b) (f := f) (k := k) with
    e | ⟨_, e⟩ | ⟨ht, e⟩ | e <;> rw [e]
  · exact .raise _
  · exact hf
  · exact .refuse _ _ hi ht
  · exact h

theorem Effect.pairStoreFault {ea lo hi : Word} (h : Instr.StoresAt i s ea 16) :
    Effect i s (pairStoreFault ea lo hi s) := by
  unfold Machine.pairStoreFault; split
  · rcases s.storeValidHalf_cases ea lo hi with ⟨_, e⟩ | ⟨_, e⟩ | e <;> rw [e]
    · exact .storeRaise _ _ _ h
    · exact .storeRaise _ _ _ h
    · exact .raise _
  · exact .raise _

theorem Effect.loadOne {n : Nat} {g : Word → Word} {rd : FReg} {rs1 : XReg} {imm : BitVec 12} :
    Effect i s (loadOne n g rd rs1 imm s) :=
  Effect.checkedLoad (.f _ _)

theorem Effect.storeOne {n : Nat} {rs1 : XReg} {imm : BitVec 12} {rs2 : FReg}
    (hi : Instr.StoresAt i s (s.ea rs1 imm) n) (hn : n ≤ 8) : Effect i s (storeOne n rs1 imm rs2 s) :=
  Effect.checkedStore hi (.raise _) (.store _ _ _ hi.isStore hn)

theorem Effect.arithX {op : ArithOp} {fmt : Fmt} {rd rs1 rs2 : FReg} {x : XRm} :
    Effect i s (arithX j op fmt rd rs1 rs2 x s) :=
  Effect.requiring (.pairFp _ _ _ _)

theorem Effect.arith64 {op : ArithOp} {fmt : Fmt} {rd rs1 rs2 : FReg} {rm : BitVec 3} :
    Effect i s (arith64 j op fmt rd rs1 rs2 rm s) :=
  Effect.withRoundingOrX (fun _ => Effect.arithX) fun _ => .fp _ _ _

theorem Effect.packedDivide {fmt : Fmt} {rd rs1 rs2 : FReg} {rm : BitVec 3} :
    Effect i s (packedDivide j fmt rd rs1 rs2 rm s) :=
  Effect.withRoundingOrX (fun _ => Effect.arithX) fun _ => by
    dsimp only; split
    · exact .fp _ _ _
    · split
      · exact .fp _ _ _
      · split
        · exact .raise _
        · exact .fp _ _ _

theorem Effect.compareLow {fmt : Fmt} {op : BitVec fmt.width → BitVec fmt.width → Bool × FpFlags} {rd : XReg}
    {rs1 rs2 : FReg} : Effect i s (compareLow fmt op rd rs1 rs2 s) := .cmp _ _ _

theorem Effect.packedSelect {fmt : Fmt} {op : BitVec fmt.width → BitVec fmt.width → FpResult fmt}
    {rd rs1 rs2 : FReg} : Effect i s (packedSelect fmt op rd rs1 rs2 s) := .fp _ _ _

theorem Effect.packS {a b : Bool} {rd rs1 rs2 : FReg} : Effect i s (packS j a b rd rs1 rs2 s) :=
  Effect.requiring (.f _ _)

theorem Effect.packH {a b : Bool} {rd rs1 rs2 : FReg} : Effect i s (packH j a b rd rs1 rs2 s) :=
  Effect.requiring (.f _ _)

theorem Effect.cvtToD {src : Fmt} {rd rs1 : FReg} {rm : BitVec 3} : Effect i s (cvtToD j src rd rs1 rm s) :=
  Effect.withRounding fun _ => .fp _ _ _

theorem Effect.cvtFromD {dst : Fmt} {rd rs1 : FReg} {rm : BitVec 3} : Effect i s (cvtFromD j dst rd rs1 rm s) :=
  Effect.withRounding fun _ => .fp _ _ _

theorem Effect.widenX {src : Fmt} {rd rs1 : FReg} {x : XRm} : Effect i s (widenX j src rd rs1 x s) :=
  Effect.requiring (.pairFp _ _ _ _)

theorem Effect.narrowX {dst : Fmt} {rd rs1 : FReg} {x : XRm} : Effect i s (narrowX j dst rd rs1 x s) :=
  Effect.requiring (.fp _ _ _)

theorem Effect.widenLow {src : Fmt} {rd rs1 : FReg} {rm : BitVec 3} : Effect i s (widenLow j src rd rs1 rm s) :=
  Effect.withRoundingOrX (fun _ => Effect.widenX) fun _ => .fp _ _ _

theorem Effect.widenHigh {src : Fmt} {rd rs1 : FReg} {rm : BitVec 3} : Effect i s (widenHigh j src rd rs1 rm s) :=
  Effect.withRounding fun _ => .fp _ _ _

theorem Effect.narrowLow {dst : Fmt} {rd rs1 : FReg} {rm : BitVec 3} : Effect i s (narrowLow j dst rd rs1 rm s) :=
  Effect.withRoundingOrX (fun _ => Effect.narrowX) fun _ => .fp _ _ _

theorem Effect.sqrtX {fmt : Fmt} {rd rs1 : FReg} {x : XRm} : Effect i s (sqrtX j fmt rd rs1 x s) :=
  Effect.requiring (by
    dsimp only; split
    · exact .raise _
    · exact .pairFp _ _ _ _)

theorem Effect.sqrtBody {fmt : Fmt} {rd rs1 : FReg} {m : RMode} : Effect i s (sqrtBody j fmt rd rs1 m s) := by
  unfold Machine.sqrtBody; dsimp only; split
  · exact .fp _ _ _
  · split
    · exact .fp _ _ _
    · split
      · exact .raise _
      · exact .fp _ _ _

theorem Effect.helper {fmt : Fmt} {g : BitVec fmt.width → FpResult fmt} {rd rs1 : FReg} :
    Effect i s (helper j fmt g rd rs1 s) :=
  Effect.requiring (.fp _ _ _)

theorem Effect.multiplyAdd {fmt : Fmt} {negp negc : Bool} {rd rs1 rs2 rs3 : FReg} {rm : BitVec 3} :
    Effect i s (multiplyAdd j fmt negp negc rd rs1 rs2 rs3 rm s) :=
  Effect.withRounding fun _ => .fp _ _ _

theorem Effect.misc2 {g : Word → Word → Word} {rd rs1 rs2 : XReg} : Effect i s (misc2 j g rd rs1 rs2 s) :=
  Effect.requiring (.x _ _)

/-- A jump target whose bit 1 is clear is a multiple of 4: bit 0 of the sum is cleared (R294). -/
theorem jalrTarget_aligned {rs1 : XReg} {imm : BitVec 12} (h : (s.jalrTarget rs1 imm).getLsbD 1 = false) :
    (s.jalrTarget rs1 imm).extractLsb' 0 2 = 0#2 := by
  apply BitVec.eq_of_getLsbD_eq
  intro k hk
  have h0 : (s.jalrTarget rs1 imm).getLsbD 0 = false := by simp [State.jalrTarget]
  rcases (by omega : k = 0 ∨ k = 1) with rfl | rfl
  · simpa using h0
  · simpa using h

theorem Effect.jalr {rd rs1 : XReg} {imm : BitVec 12} (hi : Instr.IsJump i) : Effect i s (execJalr rd rs1 imm s) := by
  unfold execJalr; dsimp only; split
  · exact .raise _
  · next h => exact .jump _ _ _ hi (jalrTarget_aligned (by simpa using h))

/-- Everything an instruction can do. -/
theorem exec_effect (i : Instr) (s : State) : Effect i s (exec i s) := by
  cases i with
  | flh => rw [exec_flh]; exact Effect.loadOne
  | flw => rw [exec_flw]; exact Effect.loadOne
  | fld => rw [exec_fld]; exact Effect.loadOne
  | flx => rw [exec_flx]; exact Effect.requiring (Effect.checkedLoad (.pair _ _ _))
  | fsh => rw [exec_fsh]; exact Effect.storeOne ⟨_, _, _, rfl, .inl ⟨rfl, rfl⟩⟩ (by omega)
  | fsw => rw [exec_fsw]; exact Effect.storeOne ⟨_, _, _, rfl, .inr (.inl ⟨rfl, rfl⟩)⟩ (by omega)
  | fsd => rw [exec_fsd]; exact Effect.storeOne ⟨_, _, _, rfl, .inr (.inr (.inl ⟨rfl, rfl⟩))⟩ (by omega)
  | fsx a b c =>
    rw [exec_fsx]
    have h : Instr.StoresAt (.fsx a b c) s (s.ea a b) 16 := ⟨a, b, c, rfl, .inr (.inr (.inr ⟨rfl, rfl⟩))⟩
    exact Effect.requiring (Effect.checkedStore h (Effect.pairStoreFault h) (.store2 _ _ _ h.isStore))
  | paddS => rw [exec_paddS]; exact Effect.arith64
  | psubS => rw [exec_psubS]; exact Effect.arith64
  | pmulS => rw [exec_pmulS]; exact Effect.arith64
  | paddH => rw [exec_paddH]; exact Effect.arith64
  | psubH => rw [exec_psubH]; exact Effect.arith64
  | pmulH => rw [exec_pmulH]; exact Effect.arith64
  | faddD => rw [exec_faddD]; exact Effect.arith64
  | fsubD => rw [exec_fsubD]; exact Effect.arith64
  | fmulD => rw [exec_fmulD]; exact Effect.arith64
  | fdivD => rw [exec_fdivD]; exact Effect.arith64
  | pdivS => rw [exec_pdivS]; exact Effect.packedDivide
  | pdivH => rw [exec_pdivH]; exact Effect.packedDivide
  | paddxS => rw [exec_paddxS]; exact Effect.arithX
  | psubxS => rw [exec_psubxS]; exact Effect.arithX
  | pmulxS => rw [exec_pmulxS]; exact Effect.arithX
  | paddxD => rw [exec_paddxD]; exact Effect.arithX
  | psubxD => rw [exec_psubxD]; exact Effect.arithX
  | pmulxD => rw [exec_pmulxD]; exact Effect.arithX
  | paddxH => rw [exec_paddxH]; exact Effect.arithX
  | psubxH => rw [exec_psubxH]; exact Effect.arithX
  | pmulxH => rw [exec_pmulxH]; exact Effect.arithX
  | pdivxS => rw [exec_pdivxS]; exact Effect.arithX
  | pdivxD => rw [exec_pdivxD]; exact Effect.arithX
  | pdivxH => rw [exec_pdivxH]; exact Effect.arithX
  | psgnjS => rw [exec_psgnjS]; exact .f _ _
  | psgnjnS => rw [exec_psgnjnS]; exact .f _ _
  | psgnjxS => rw [exec_psgnjxS]; exact .f _ _
  | fsgnjD => rw [exec_fsgnjD]; exact .f _ _
  | fsgnjnD => rw [exec_fsgnjnD]; exact .f _ _
  | fsgnjxD => rw [exec_fsgnjxD]; exact .f _ _
  | psgnjH => rw [exec_psgnjH]; exact .f _ _
  | psgnjnH => rw [exec_psgnjnH]; exact .f _ _
  | psgnjxH => rw [exec_psgnjxH]; exact .f _ _
  | pminS => rw [exec_pminS]; exact Effect.packedSelect
  | pmaxS => rw [exec_pmaxS]; exact Effect.packedSelect
  | pminH => rw [exec_pminH]; exact Effect.packedSelect
  | pmaxH => rw [exec_pmaxH]; exact Effect.packedSelect
  | fpkbbH => rw [exec_fpkbbH]; exact Effect.packH
  | fpkbtH => rw [exec_fpkbtH]; exact Effect.packH
  | fpktbH => rw [exec_fpktbH]; exact Effect.packH
  | fpkttH => rw [exec_fpkttH]; exact Effect.packH
  | fpkbbS => rw [exec_fpkbbS]; exact Effect.packS
  | fpkbtS => rw [exec_fpkbtS]; exact Effect.packS
  | fpktbS => rw [exec_fpktbS]; exact Effect.packS
  | fpkttS => rw [exec_fpkttS]; exact Effect.packS
  | fcvtSD => rw [exec_fcvtSD]; exact Effect.cvtFromD
  | fcvtHD => rw [exec_fcvtHD]; exact Effect.cvtFromD
  | fcvtBf16D => rw [exec_fcvtBf16D]; exact Effect.cvtFromD
  | fcvtDS => rw [exec_fcvtDS]; exact Effect.cvtToD
  | fcvtDH => rw [exec_fcvtDH]; exact Effect.cvtToD
  | fcvtDBf16 => rw [exec_fcvtDBf16]; exact Effect.cvtToD
  | pcvtSH => rw [exec_pcvtSH]; exact Effect.widenLow
  | pcvtSBf16 => rw [exec_pcvtSBf16]; exact Effect.widenLow
  | pcvtHS => rw [exec_pcvtHS]; exact Effect.narrowLow
  | pcvtBf16S => rw [exec_pcvtBf16S]; exact Effect.narrowLow
  | pcvthiSH => rw [exec_pcvthiSH]; exact Effect.widenHigh
  | pcvthiSBf16 => rw [exec_pcvthiSBf16]; exact Effect.widenHigh
  | pcvtxSH => rw [exec_pcvtxSH]; exact Effect.widenX
  | pcvtxSBf16 => rw [exec_pcvtxSBf16]; exact Effect.widenX
  | pcvtxHS => rw [exec_pcvtxHS]; exact Effect.narrowX
  | pcvtxBf16S => rw [exec_pcvtxBf16S]; exact Effect.narrowX
  | psqrtS => rw [exec_psqrtS]; exact Effect.withRoundingOrX (fun _ => Effect.sqrtX) fun _ => Effect.sqrtBody
  | fsqrtD => rw [exec_fsqrtD]; exact Effect.withRoundingOrX (fun _ => Effect.sqrtX) fun _ => .fp _ _ _
  | psqrtH => rw [exec_psqrtH]; exact Effect.withRounding fun _ => Effect.sqrtBody
  | psqrtxS => rw [exec_psqrtxS]; exact Effect.sqrtX
  | psqrtxD => rw [exec_psqrtxD]; exact Effect.sqrtX
  | prcpaS => rw [exec_prcpaS]; exact Effect.helper
  | frcpaD => rw [exec_frcpaD]; exact Effect.helper
  | prcpaH => rw [exec_prcpaH]; exact Effect.helper
  | psqrtaS => rw [exec_psqrtaS]; exact Effect.helper
  | fsqrtaD => rw [exec_fsqrtaD]; exact Effect.helper
  | psqrtaH => rw [exec_psqrtaH]; exact Effect.helper
  | pmaddS => rw [exec_pmaddS]; exact Effect.multiplyAdd
  | pmaddH => rw [exec_pmaddH]; exact Effect.multiplyAdd
  | pmsubS => rw [exec_pmsubS]; exact Effect.multiplyAdd
  | pmsubH => rw [exec_pmsubH]; exact Effect.multiplyAdd
  | pnmsubS => rw [exec_pnmsubS]; exact Effect.multiplyAdd
  | pnmsubH => rw [exec_pnmsubH]; exact Effect.multiplyAdd
  | pnmaddS => rw [exec_pnmaddS]; exact Effect.multiplyAdd
  | pnmaddH => rw [exec_pnmaddH]; exact Effect.multiplyAdd
  | pack => rw [exec_pack]; exact Effect.misc2
  | packu => rw [exec_packu]; exact Effect.misc2
  | pkbb16 => rw [exec_pkbb16]; exact Effect.misc2
  | pkbt16 => rw [exec_pkbt16]; exact Effect.misc2
  | pktb16 => rw [exec_pktb16]; exact Effect.misc2
  | pktt16 => rw [exec_pktt16]; exact Effect.misc2
  | pkbb32 => rw [exec_pkbb32]; exact Effect.misc2
  | pkbt32 => rw [exec_pkbt32]; exact Effect.misc2
  | pktb32 => rw [exec_pktb32]; exact Effect.misc2
  | pktt32 => rw [exec_pktt32]; exact Effect.misc2
  | pshufW => rw [exec_pshufW]; exact Effect.requiring (.x _ _)
  | pfshufW => rw [exec_pfshufW]; exact Effect.requiring (.f _ _)
  | fleS => rw [exec_fleS]; exact Effect.compareLow
  | fltS => rw [exec_fltS]; exact Effect.compareLow
  | feqS => rw [exec_feqS]; exact Effect.compareLow
  | fleD => rw [exec_fleD]; exact Effect.compareLow
  | fltD => rw [exec_fltD]; exact Effect.compareLow
  | feqD => rw [exec_feqD]; exact Effect.compareLow
  | fleH => rw [exec_fleH]; exact Effect.compareLow
  | fltH => rw [exec_fltH]; exact Effect.compareLow
  | feqH => rw [exec_feqH]; exact Effect.compareLow
  | fmvXD => rw [exec_fmvXD]; exact .x _ _
  | fmvDX => rw [exec_fmvDX]; exact .f _ _
  | sub => rw [exec_sub]; exact .x _ _
  | jalr => rw [exec_jalr]; exact Effect.jalr ⟨_, _, _, rfl⟩
  | addi => rw [exec_addi]; exact .x _ _

/-! ### Everything a step can do -/

/-- A step of a running machine executes an instruction, raises an exception of the fetch or of a reserved word, or
is refused. -/
theorem step_cases {s t : State} (h : step s = .next t) :
    s.trap = none ∧ s.params.haltPc ≠ some s.pc ∧ ((∃ i, exec i s = .next t) ∨ ∃ e, t = s.raise e) := by
  unfold step at h
  split at h
  · cases h
  · next ht =>
    split at h
    · cases h
    · next hh =>
      refine ⟨ht, hh, ?_⟩
      unfold stepRunning at h
      split at h
      · exact .inr ⟨_, (by cases h; rfl)⟩
      · exact .inr ⟨_, (by cases h; rfl)⟩
      · cases h
      · next w _ =>
        unfold execDecoded at h
        split at h
        · exact .inl ⟨_, h⟩
        · exact .inr ⟨_, (by cases h; rfl)⟩
        · cases h
        · cases h

end Sys2Proof.Machine
end

