-- ==== Sys2Proof/Laws/Ieee.lean ====
section
/-! SUPPORT. What an instantiation of `Numerics` can answer, whichever the machine has: a NaN for a NaN operand, the
named operation's result where it is exact, an operand or a NaN for a minimum or maximum, R170's comparisons. -/

namespace Sys2Proof.Machine

variable {fmt : Fmt} {rm : RMode} {a b : BitVec fmt.width}

/-! ### NaNs (P2 of R12) -/

theorem isNaN_canonicalNaN (fmt : Fmt) : isNaN fmt (canonicalNaN fmt) = true := by cases fmt <;> decide

/-- A bit pattern with the canonical NaN's bits set is a NaN. -/
theorem isNaN_or_canonicalNaN (v : BitVec fmt.width) : isNaN fmt (v ||| canonicalNaN fmt) = true := by
  unfold isNaN canonicalNaN
  simp only [Bool.and_eq_true, beq_iff_eq, bne_iff_ne, ne_eq]
  constructor
  · apply BitVec.eq_of_getLsbD_eq
    intro i _
    simp only [BitVec.getLsbD_and, BitVec.getLsbD_or]
    cases (expMask fmt).getLsbD i <;> simp
  · intro he
    have key : quietBit fmt &&& fracMask fmt ≠ 0#fmt.width := by cases fmt <;> decide
    refine key (BitVec.eq_of_getLsbD_eq fun i _ => ?_)
    have := congrArg (fun z => BitVec.getLsbD z i) he
    simp only [BitVec.getLsbD_and, BitVec.getLsbD_or, BitVec.getLsbD_zero] at this ⊢
    revert this
    cases (quietBit fmt).getLsbD i <;> cases (fracMask fmt).getLsbD i <;> simp

theorem isNaN_forceNaN (r : FpResult fmt) : isNaN fmt (forceNaN fmt true r).1 = true := by
  unfold forceNaN
  split
  · exact isNaN_or_canonicalNaN _
  · next h => simpa using h

@[simp] theorem forceNaN_flags (c : Bool) (r : FpResult fmt) : (forceNaN fmt c r).2 = r.2 := by
  unfold forceNaN; split <;> rfl

theorem isNaN_withoutNaN2 {k : FpVal → FpVal → FpResult fmt} (h : (isNaN fmt a || isNaN fmt b) = true) :
    isNaN fmt (withoutNaN2 fmt a b k).1 = true := by
  unfold withoutNaN2; rw [if_pos h]; exact isNaN_canonicalNaN fmt

theorem isNaN_conformingOp {flags sub : Bool} {u : FpResult fmt} {r : RMode → FpResult fmt} :
    isNaN fmt (conformingOp fmt rm true flags sub u r).1 = true := isNaN_forceNaN _

theorem isNaN_conformingCvt {dst : Fmt} {u : RMode → FpResult dst} (h : isNaN fmt a = true) :
    isNaN dst (conformingCvt dst fmt rm a u).1 = true := by
  unfold conformingCvt
  simp only [h, Bool.not_true, Bool.false_and, Bool.false_eq_true, if_true, if_false]
  split
  · exact isNaN_forceNaN _
  · exact isNaN_conformingOp

/-! ### Infinities and zeros (R13) -/

/-- A pattern is its sign, its exponent field and its fraction field (R13). -/
theorem toNat_fields {fmt : Fmt} (v : BitVec fmt.width) :
    v.toNat = v.toNat % 2 ^ fracBits fmt + (v.toNat >>> fracBits fmt) % 2 ^ expBits fmt * 2 ^ fracBits fmt +
      if v.msb then 2 ^ (fmt.width - 1) else 0 := by
  have hv := v.isLt
  rw [BitVec.msb_eq_decide, Nat.shiftRight_eq_div_pow]
  cases fmt <;> simp only [Fmt.width, fracBits, expBits] at * <;> simp only [decide_eq_true_eq] <;> split <;> omega

/-- Only the two infinities unpack to one. -/
theorem unpack_inf_iff {fmt : Fmt} {v : BitVec fmt.width} {n : Bool} : unpack fmt v = .inf n ↔ v = infinity fmt n := by
  constructor
  · intro h
    have hv := toNat_fields v
    unfold unpack at h
    dsimp only at h
    split at h
    · next h1 =>
      split at h
      · next h2 =>
        cases h
        apply BitVec.eq_of_toNat_eq
        rw [hv, h2, h1]
        cases fmt <;> cases v.msb <;> rfl
      · cases h
    · split at h <;> cases h
  · rintro rfl; cases fmt <;> cases n <;> decide

/-- Only the two zeros unpack to one. -/
theorem unpack_zero_iff {fmt : Fmt} {v : BitVec fmt.width} {n : Bool} :
    (∃ e, unpack fmt v = .fin n 0 e) ↔ v = zeroOf fmt n := by
  constructor
  · rintro ⟨e, h⟩
    have hv := toNat_fields v
    have hp := Nat.two_pow_pos (fracBits fmt)
    unfold unpack at h
    dsimp only at h
    split at h
    · split at h <;> cases h
    · split at h
      · next h1 =>
        injection h with h2 h3
        subst h2
        apply BitVec.eq_of_toNat_eq
        rw [hv, h3, h1]
        cases fmt <;> cases v.msb <;> rfl
      · injection h with h2 h3; omega
  · rintro rfl; cases fmt <;> cases n <;> exact ⟨_, rfl⟩

/-- inf * 0 is an infinity and a zero. -/
theorem infTimesZero_iff {fmt : Fmt} {v w : BitVec fmt.width} : infTimesZero (unpack fmt v) (unpack fmt w) = true ↔
    ((v = infinity fmt true ∨ v = infinity fmt false) ∧ (w = zeroOf fmt true ∨ w = zeroOf fmt false)) ∨
    ((v = zeroOf fmt true ∨ v = zeroOf fmt false) ∧ (w = infinity fmt true ∨ w = infinity fmt false)) := by
  simp only [← unpack_inf_iff, ← unpack_zero_iff]
  cases unpack fmt v with
  | nan => cases unpack fmt w <;> simp [infTimesZero]
  | inf a =>
    cases unpack fmt w with
    | fin b => cases a <;> cases b <;> simp [infTimesZero]
    | _ => simp [infTimesZero]
  | fin a =>
    cases unpack fmt w with
    | inf b => cases a <;> cases b <;> simp [infTimesZero]
    | _ => simp [infTimesZero]

/-! ### The named operation (P1 of R12) -/

/-- An exact result that is no NaN and not near the subnormal range, of operands that are not either, is the named
operation's. -/
theorem heldToOperation_exact {u : FpResult fmt} {r : RMode → FpResult fmt} (hx : (r rm).2 &&& flagNX = 0#5)
    (hs : isSubnormal fmt (r rm).1 = false) (hn : isNaN fmt (r rm).1 = false) :
    (heldToOperation fmt rm false u r).1 = (r rm).1 := by
  unfold heldToOperation
  simp only [nearSubnormal, hs, hx, hn]
  split
  · next h => simp at h
  · split <;> rfl

/-- `conforming2` of two numbers that are not subnormal. -/
theorem conforming2_numbers {u : FpResult fmt} {r : RMode → FpResult fmt} (ha : isNaN fmt a = false)
    (hb : isNaN fmt b = false) (sa : isSubnormal fmt a = false) (sb : isSubnormal fmt b = false) :
    conforming2 fmt rm a b u r = heldToOperation fmt rm false u r := by
  simp [conforming2, conformingOp, ha, hb, sa, sb]

/-- `conformingFma` of three numbers that are not subnormal. -/
theorem conformingFma_numbers {c : BitVec fmt.width} {np nc : Bool} {u : FpResult fmt} (ha : isNaN fmt a = false)
    (hb : isNaN fmt b = false) (hc : isNaN fmt c = false) (sa : isSubnormal fmt a = false)
    (sb : isSubnormal fmt b = false) (sc : isSubnormal fmt c = false) :
    conformingFma fmt rm a b c np nc u = heldToOperation fmt rm false u fun m => ieeeFma fmt m a b c np nc := by
  simp [conformingFma, conformingOp, ha, hb, hc, sa, sb, sc]

/-- `conformingSqrt` of a positive number that is not subnormal, or of +0. -/
theorem conformingSqrt_positive {u : FpResult fmt} (ha : isNaN fmt a = false) (sa : isSubnormal fmt a = false)
    (hm : a.msb = false) : conformingSqrt fmt rm a u = heldToOperation fmt rm false u fun m => ieeeSqrt fmt m a := by
  simp [conformingSqrt, conformingOp, ha, sa, hm]

/-- `conformingCvt` of a number that is not subnormal, where it narrows without overflow. -/
theorem conformingCvt_numbers {dst : Fmt} {u : RMode → FpResult dst} (ha : isNaN fmt a = false)
    (sa : isSubnormal fmt a = false) (hw : widens dst fmt = false) (ho : (ieeeCvt dst fmt rm a).2 &&& flagOF = 0#5) :
    conformingCvt dst fmt rm a u = heldToOperation dst rm false (u rm) fun m => ieeeCvt dst fmt m a := by
  simp [conformingCvt, conformingOp, ha, sa, hw, ho]

/-- An exact rounding does not overflow. -/
theorem roundPack_exact_no_overflow {fmt : Fmt} {rm : RMode} {neg : Bool} {m : Nat} {e : Int} {st : Bool}
    (h : (roundPack fmt rm neg m e st).2 &&& flagNX = 0#5) : (roundPack fmt rm neg m e st).2 &&& flagOF = 0#5 := by
  revert h
  unfold roundPack
  split
  · intro _; exact show 0#5 &&& flagOF = 0#5 by decide
  · dsimp only
    split
    · intro h; exact absurd (show (flagOF ||| flagNX) &&& flagNX = 0#5 from h) (by decide)
    · intro _
      dsimp only
      generalize (shiftRound _ _ _ _ _).2 = x
      generalize (x && _) = y
      revert x y; decide

/-- An exact conversion does not overflow. -/
theorem ieeeCvt_exact_no_overflow {dst src : Fmt} {rm : RMode} {v : BitVec src.width}
    (h : (ieeeCvt dst src rm v).2 &&& flagNX = 0#5) : (ieeeCvt dst src rm v).2 &&& flagOF = 0#5 := by
  revert h
  unfold ieeeCvt
  split
  · intro _
    show flagIf (isSignalling src v) flagNV &&& flagOF = 0#5
    cases isSignalling src v <;> decide
  · cases unpack src v with
    | nan => intro _; exact show flagIf false flagNV &&& flagOF = 0#5 by decide
    | inf n => intro _; exact show 0#5 &&& flagOF = 0#5 by decide
    | fin n m e => exact roundPack_exact_no_overflow

/-! ### Widening conversions are exact (R202) -/

/-- A left shift loses nothing. -/
theorem shiftRound_left {rm : RMode} {neg : Bool} {m : Nat} {sh : Int} (h : sh ≤ 0) :
    shiftRound rm neg m sh false = (m <<< (-sh).toNat, false) := by
  unfold shiftRound; rw [if_pos h]

/-- A number with no more digits than the format has, within its exponents, needs no rounding. -/
theorem roundPack_exact {fmt : Fmt} {rm : RMode} {neg : Bool} {m : Nat} {e : Int} (hm : m ≠ 0)
    (hd : m < 2 ^ (fracBits fmt + 1)) (hlo : 1 - (bias fmt : Int) - fracBits fmt ≤ e)
    (hhi : (m.log2 : Int) + e ≤ bias fmt) :
    roundPack fmt rm neg m e false = roundPack fmt .rne neg m e false := by
  have hl : m.log2 ≤ fracBits fmt := Nat.lt_succ_iff.1 ((Nat.log2_lt hm).2 hd)
  have hsh : max ((m.log2 : Int) + e) (1 - (bias fmt : Int)) - fracBits fmt - e ≤ 0 := by omega
  have hq : m <<< (-(max ((m.log2 : Int) + e) (1 - (bias fmt : Int)) - fracBits fmt - e)).toNat <
      2 ^ (fracBits fmt + 1) := by
    rw [Nat.shiftLeft_eq]
    have h1 : m < 2 ^ (m.log2 + 1) := Nat.lt_log2_self
    have h2 : (-(max ((m.log2 : Int) + e) (1 - (bias fmt : Int)) - fracBits fmt - e)).toNat ≤ fracBits fmt - m.log2 := by
      omega
    calc m * 2 ^ _ ≤ m * 2 ^ (fracBits fmt - m.log2) := Nat.mul_le_mul_left _ (Nat.pow_le_pow_right (by omega) h2)
      _ < 2 ^ (m.log2 + 1) * 2 ^ (fracBits fmt - m.log2) := Nat.mul_lt_mul_of_pos_right h1 (Nat.two_pow_pos _)
      _ = 2 ^ (fracBits fmt + 1) := by rw [← Nat.pow_add]; congr 1; omega
  have hov : ¬ infMag fmt ≤
      (max ((m.log2 : Int) + e) (1 - (bias fmt : Int)) - fracBits fmt + fracBits fmt + bias fmt - 1).toNat *
        2 ^ fracBits fmt +
      m <<< (-(max ((m.log2 : Int) + e) (1 - (bias fmt : Int)) - fracBits fmt - e)).toNat := by
    have hk : (max ((m.log2 : Int) + e) (1 - (bias fmt : Int)) - fracBits fmt + fracBits fmt + bias fmt - 1).toNat ≤
        2 * bias fmt - 1 := by
      have : 1 ≤ bias fmt := by cases fmt <;> decide
      omega
    have hb : infMag fmt = (2 * bias fmt - 1) * 2 ^ fracBits fmt + 2 ^ (fracBits fmt + 1) := by cases fmt <;> decide
    have := Nat.mul_le_mul_right (2 ^ fracBits fmt) hk
    omega
  unfold roundPack
  rw [if_neg hm, if_neg hm]
  dsimp only
  rw [shiftRound_left hsh, shiftRound_left hsh]
  dsimp only
  rw [if_neg hov, if_neg hov]
  simp [flagIf]
/-- The digits and the exponent of a number of a format (R13). -/
theorem unpack_fin_bounds {fmt : Fmt} {v : BitVec fmt.width} {n : Bool} {m : Nat} {e : Int}
    (h : unpack fmt v = .fin n m e) :
    m < 2 ^ (fracBits fmt + 1) ∧ 1 - (bias fmt : Int) - fracBits fmt ≤ e ∧
      (m ≠ 0 → (m.log2 : Int) + e ≤ bias fmt) := by
  have hp : 2 ^ (fracBits fmt + 1) = 2 ^ fracBits fmt + 2 ^ fracBits fmt := by rw [Nat.pow_succ]; omega
  have hf : v.toNat % 2 ^ fracBits fmt < 2 ^ fracBits fmt := Nat.mod_lt _ (Nat.two_pow_pos _)
  have he : (v.toNat >>> fracBits fmt) % 2 ^ expBits fmt < 2 ^ expBits fmt := Nat.mod_lt _ (Nat.two_pow_pos _)
  have hb : 2 ^ expBits fmt = 2 * bias fmt + 2 ∧ 1 ≤ bias fmt := by cases fmt <;> decide
  have hl : ∀ k : Nat, k ≠ 0 → k < 2 ^ (fracBits fmt + 1) → k.log2 ≤ fracBits fmt :=
    fun k h0 hk => Nat.lt_succ_iff.1 ((Nat.log2_lt h0).2 hk)
  unfold unpack at h
  dsimp only at h
  split at h
  · split at h <;> cases h
  · split at h
    · cases h
      refine ⟨by omega, by omega, fun h0 => ?_⟩
      have := hl _ h0 (by omega)
      omega
    · cases h
      refine ⟨by omega, by omega, fun h0 => ?_⟩
      have := hl _ h0 (by omega)
      omega

/-- The mode does not affect a widening conversion (R202). -/
theorem ieeeCvt_widens {dst src : Fmt} {rm : RMode} {v : BitVec src.width} (h : widens dst src = true) :
    ieeeCvt dst src rm v = ieeeCvt dst src .rne v := by
  have hw : fracBits src ≤ fracBits dst ∧ bias src ≤ bias dst := by revert h; cases dst <;> cases src <;> decide
  unfold ieeeCvt
  split
  · rfl
  · generalize hu : unpack src v = u
    cases u with
    | nan => rfl
    | inf n => rfl
    | fin n m e =>
      obtain ⟨hd, hlo, hhi⟩ := unpack_fin_bounds hu
      by_cases h0 : m = 0
      · simp [cvtVal, roundPack, h0]
      · have hp : 2 ^ (fracBits src + 1) ≤ 2 ^ (fracBits dst + 1) := Nat.pow_le_pow_right (by omega) (by omega)
        have := hhi h0
        exact roundPack_exact h0 (by omega) (by omega) (by omega)

/-! ### Minimum and maximum (R180, R181) -/

/-- The result is one of the operands or a NaN, if the recommended one is. -/
theorem conformingSelect_mem {u r : FpResult fmt} (hr : r.1 = a ∨ r.1 = b ∨ isNaN fmt r.1 = true) :
    (conformingSelect fmt a b u r).1 = a ∨ (conformingSelect fmt a b u r).1 = b ∨
      isNaN fmt (conformingSelect fmt a b u r).1 = true := by
  unfold conformingSelect
  dsimp only
  split
  · exact .inr (.inr (isNaN_forceNaN _))
  · split
    · split
      · next h => simpa [or_assoc] using Or.imp id Or.inl (by simpa using h.2 : u.1 = a ∨ u.1 = b)
      · exact hr
    · split
      · next h => simpa [or_assoc] using h
      · exact hr

/-- The flags are the recommended ones. -/
theorem conformingSelect_flags {u r : FpResult fmt} : (conformingSelect fmt a b u r).2 = r.2 := by
  unfold conformingSelect
  dsimp only
  split
  · simp
  · split <;> split <;> rfl

/-- Of two numbers in order the result is the recommended one. -/
theorem conformingSelect_ordered {u r : FpResult fmt} (ha : isNaN fmt a = false) (hb : isNaN fmt b = false)
    (h : orderKey fmt a ≠ orderKey fmt b) : conformingSelect fmt a b u r = r := by
  simp [conformingSelect, bothNumbers, ha, hb, h]

/-! ### The machine's instantiation -/

@[simp] theorem numericsOf_le (p : Params) : (numericsOf p).le = ieeeLe := by unfold numericsOf; split <;> rfl

@[simp] theorem numericsOf_lt (p : Params) : (numericsOf p).lt = ieeeLt := by unfold numericsOf; split <;> rfl

@[simp] theorem numericsOf_eq (p : Params) : (numericsOf p).eq = ieeeEq := by unfold numericsOf; split <;> rfl

@[simp] theorem numericsOf_rcpa (p : Params) : (numericsOf p).rcpa = Config.numerics.rcpa := by
  unfold numericsOf; split <;> rfl

@[simp] theorem numericsOf_sqrta (p : Params) : (numericsOf p).sqrta = Config.numerics.sqrta := by
  unfold numericsOf; split <;> rfl

/-- The mode does not affect a widening conversion, whichever instantiation the machine has (R202). -/
theorem numericsOf_cvt_widens (p : Params) {dst src : Fmt} {rm : RMode} {v : BitVec src.width}
    (h : widens dst src = true) : (numericsOf p).cvt dst src rm v = (numericsOf p).cvt dst src .rne v := by
  unfold numericsOf
  split
  · exact ieeeCvt_widens h
  · dsimp only [conforming]
    unfold conformingCvt
    rw [if_pos h, if_pos h]

end Sys2Proof.Machine
end

