-- ==== Sys2Proof/Laws/PerInstr.lean ====
section
/-! SUPPORT. The families of statements made of every instruction, one lemma per constructor. -/

namespace Sys2Proof.Laws

/-- The two low bits of a word made of fields are those of its opcode. -/
theorem low2_word (F : Fields) : F.word.extractLsb' 0 2 = F.op.extractLsb' 0 2 := by
  rw [← opcode_word]
  apply BitVec.eq_of_getLsbD_eq
  intro i hi
  simp

/-- Bits 1:0 of every instruction word are 11: there is no 16-bit form (R60). -/
def EncodeLowBits.Statement (i : Instr) : Prop := (encode i).extractLsb' 0 2 = 0b11#2

theorem EncodeLowBits.of_opcode {i : Instr} (o : BitVec 7) (h : (encodeFields i).op = o)
    (ho : o.extractLsb' 0 2 = 0b11#2) : EncodeLowBits.Statement i := by
  rw [EncodeLowBits.Statement, encode, low2_word, h, ho]

theorem EncodeLowBits.flh (rd : FReg) (rs1 : XReg) (imm : BitVec 12) : EncodeLowBits.Statement (.flh rd rs1 imm) :=
  EncodeLowBits.of_opcode 0b0000111#7 rfl (by decide)

theorem EncodeLowBits.flw (rd : FReg) (rs1 : XReg) (imm : BitVec 12) : EncodeLowBits.Statement (.flw rd rs1 imm) :=
  EncodeLowBits.of_opcode 0b0000111#7 rfl (by decide)

theorem EncodeLowBits.fld (rd : FReg) (rs1 : XReg) (imm : BitVec 12) : EncodeLowBits.Statement (.fld rd rs1 imm) :=
  EncodeLowBits.of_opcode 0b0000111#7 rfl (by decide)

theorem EncodeLowBits.fsh (rs1 : XReg) (imm : BitVec 12) (rs2 : FReg) : EncodeLowBits.Statement (.fsh rs1 imm rs2) :=
  EncodeLowBits.of_opcode 0b0100111#7 rfl (by decide)

theorem EncodeLowBits.fsw (rs1 : XReg) (imm : BitVec 12) (rs2 : FReg) : EncodeLowBits.Statement (.fsw rs1 imm rs2) :=
  EncodeLowBits.of_opcode 0b0100111#7 rfl (by decide)

theorem EncodeLowBits.fsd (rs1 : XReg) (imm : BitVec 12) (rs2 : FReg) : EncodeLowBits.Statement (.fsd rs1 imm rs2) :=
  EncodeLowBits.of_opcode 0b0100111#7 rfl (by decide)

theorem EncodeLowBits.flx (rd : FReg) (rs1 : XReg) (imm : BitVec 12) : EncodeLowBits.Statement (.flx rd rs1 imm) :=
  EncodeLowBits.of_opcode 0b0000111#7 rfl (by decide)

theorem EncodeLowBits.fsx (rs1 : XReg) (imm : BitVec 12) (rs2 : FReg) : EncodeLowBits.Statement (.fsx rs1 imm rs2) :=
  EncodeLowBits.of_opcode 0b0100111#7 rfl (by decide)

theorem EncodeLowBits.paddS (rd rs1 rs2 : FReg) (rm : BitVec 3) : EncodeLowBits.Statement (.paddS rd rs1 rs2 rm) :=
  EncodeLowBits.of_opcode 0b1010011#7 rfl (by decide)

theorem EncodeLowBits.psubS (rd rs1 rs2 : FReg) (rm : BitVec 3) : EncodeLowBits.Statement (.psubS rd rs1 rs2 rm) :=
  EncodeLowBits.of_opcode 0b1010011#7 rfl (by decide)

theorem EncodeLowBits.pmulS (rd rs1 rs2 : FReg) (rm : BitVec 3) : EncodeLowBits.Statement (.pmulS rd rs1 rs2 rm) :=
  EncodeLowBits.of_opcode 0b1010011#7 rfl (by decide)

theorem EncodeLowBits.paddH (rd rs1 rs2 : FReg) (rm : BitVec 3) : EncodeLowBits.Statement (.paddH rd rs1 rs2 rm) :=
  EncodeLowBits.of_opcode 0b1010011#7 rfl (by decide)

theorem EncodeLowBits.psubH (rd rs1 rs2 : FReg) (rm : BitVec 3) : EncodeLowBits.Statement (.psubH rd rs1 rs2 rm) :=
  EncodeLowBits.of_opcode 0b1010011#7 rfl (by decide)

theorem EncodeLowBits.pmulH (rd rs1 rs2 : FReg) (rm : BitVec 3) : EncodeLowBits.Statement (.pmulH rd rs1 rs2 rm) :=
  EncodeLowBits.of_opcode 0b1010011#7 rfl (by decide)

theorem EncodeLowBits.pdivS (rd rs1 rs2 : FReg) (rm : BitVec 3) : EncodeLowBits.Statement (.pdivS rd rs1 rs2 rm) :=
  EncodeLowBits.of_opcode 0b1010011#7 rfl (by decide)

theorem EncodeLowBits.pdivH (rd rs1 rs2 : FReg) (rm : BitVec 3) : EncodeLowBits.Statement (.pdivH rd rs1 rs2 rm) :=
  EncodeLowBits.of_opcode 0b1010011#7 rfl (by decide)

theorem EncodeLowBits.paddxS (rd rs1 rs2 : FReg) (rm : XRm) : EncodeLowBits.Statement (.paddxS rd rs1 rs2 rm) :=
  EncodeLowBits.of_opcode 0b1010011#7 rfl (by decide)

theorem EncodeLowBits.psubxS (rd rs1 rs2 : FReg) (rm : XRm) : EncodeLowBits.Statement (.psubxS rd rs1 rs2 rm) :=
  EncodeLowBits.of_opcode 0b1010011#7 rfl (by decide)

theorem EncodeLowBits.pmulxS (rd rs1 rs2 : FReg) (rm : XRm) : EncodeLowBits.Statement (.pmulxS rd rs1 rs2 rm) :=
  EncodeLowBits.of_opcode 0b1010011#7 rfl (by decide)

theorem EncodeLowBits.paddxD (rd rs1 rs2 : FReg) (rm : XRm) : EncodeLowBits.Statement (.paddxD rd rs1 rs2 rm) :=
  EncodeLowBits.of_opcode 0b1010011#7 rfl (by decide)

theorem EncodeLowBits.faddD (rd rs1 rs2 : FReg) (rm : BitVec 3) : EncodeLowBits.Statement (.faddD rd rs1 rs2 rm) :=
  EncodeLowBits.of_opcode 0b1010011#7 rfl (by decide)

theorem EncodeLowBits.psubxD (rd rs1 rs2 : FReg) (rm : XRm) : EncodeLowBits.Statement (.psubxD rd rs1 rs2 rm) :=
  EncodeLowBits.of_opcode 0b1010011#7 rfl (by decide)

theorem EncodeLowBits.fsubD (rd rs1 rs2 : FReg) (rm : BitVec 3) : EncodeLowBits.Statement (.fsubD rd rs1 rs2 rm) :=
  EncodeLowBits.of_opcode 0b1010011#7 rfl (by decide)

theorem EncodeLowBits.pmulxD (rd rs1 rs2 : FReg) (rm : XRm) : EncodeLowBits.Statement (.pmulxD rd rs1 rs2 rm) :=
  EncodeLowBits.of_opcode 0b1010011#7 rfl (by decide)

theorem EncodeLowBits.fmulD (rd rs1 rs2 : FReg) (rm : BitVec 3) : EncodeLowBits.Statement (.fmulD rd rs1 rs2 rm) :=
  EncodeLowBits.of_opcode 0b1010011#7 rfl (by decide)

theorem EncodeLowBits.paddxH (rd rs1 rs2 : FReg) (rm : XRm) : EncodeLowBits.Statement (.paddxH rd rs1 rs2 rm) :=
  EncodeLowBits.of_opcode 0b1010011#7 rfl (by decide)

theorem EncodeLowBits.psubxH (rd rs1 rs2 : FReg) (rm : XRm) : EncodeLowBits.Statement (.psubxH rd rs1 rs2 rm) :=
  EncodeLowBits.of_opcode 0b1010011#7 rfl (by decide)

theorem EncodeLowBits.pmulxH (rd rs1 rs2 : FReg) (rm : XRm) : EncodeLowBits.Statement (.pmulxH rd rs1 rs2 rm) :=
  EncodeLowBits.of_opcode 0b1010011#7 rfl (by decide)

theorem EncodeLowBits.pdivxS (rd rs1 rs2 : FReg) (rm : XRm) : EncodeLowBits.Statement (.pdivxS rd rs1 rs2 rm) :=
  EncodeLowBits.of_opcode 0b1010011#7 rfl (by decide)

theorem EncodeLowBits.pdivxD (rd rs1 rs2 : FReg) (rm : XRm) : EncodeLowBits.Statement (.pdivxD rd rs1 rs2 rm) :=
  EncodeLowBits.of_opcode 0b1010011#7 rfl (by decide)

theorem EncodeLowBits.fdivD (rd rs1 rs2 : FReg) (rm : BitVec 3) : EncodeLowBits.Statement (.fdivD rd rs1 rs2 rm) :=
  EncodeLowBits.of_opcode 0b1010011#7 rfl (by decide)

theorem EncodeLowBits.pdivxH (rd rs1 rs2 : FReg) (rm : XRm) : EncodeLowBits.Statement (.pdivxH rd rs1 rs2 rm) :=
  EncodeLowBits.of_opcode 0b1010011#7 rfl (by decide)

theorem EncodeLowBits.psgnjS (rd rs1 rs2 : FReg) : EncodeLowBits.Statement (.psgnjS rd rs1 rs2) :=
  EncodeLowBits.of_opcode 0b1010011#7 rfl (by decide)

theorem EncodeLowBits.psgnjnS (rd rs1 rs2 : FReg) : EncodeLowBits.Statement (.psgnjnS rd rs1 rs2) :=
  EncodeLowBits.of_opcode 0b1010011#7 rfl (by decide)

theorem EncodeLowBits.psgnjxS (rd rs1 rs2 : FReg) : EncodeLowBits.Statement (.psgnjxS rd rs1 rs2) :=
  EncodeLowBits.of_opcode 0b1010011#7 rfl (by decide)

theorem EncodeLowBits.fsgnjD (rd rs1 rs2 : FReg) : EncodeLowBits.Statement (.fsgnjD rd rs1 rs2) :=
  EncodeLowBits.of_opcode 0b1010011#7 rfl (by decide)

theorem EncodeLowBits.fsgnjnD (rd rs1 rs2 : FReg) : EncodeLowBits.Statement (.fsgnjnD rd rs1 rs2) :=
  EncodeLowBits.of_opcode 0b1010011#7 rfl (by decide)

theorem EncodeLowBits.fsgnjxD (rd rs1 rs2 : FReg) : EncodeLowBits.Statement (.fsgnjxD rd rs1 rs2) :=
  EncodeLowBits.of_opcode 0b1010011#7 rfl (by decide)

theorem EncodeLowBits.psgnjH (rd rs1 rs2 : FReg) : EncodeLowBits.Statement (.psgnjH rd rs1 rs2) :=
  EncodeLowBits.of_opcode 0b1010011#7 rfl (by decide)

theorem EncodeLowBits.psgnjnH (rd rs1 rs2 : FReg) : EncodeLowBits.Statement (.psgnjnH rd rs1 rs2) :=
  EncodeLowBits.of_opcode 0b1010011#7 rfl (by decide)

theorem EncodeLowBits.psgnjxH (rd rs1 rs2 : FReg) : EncodeLowBits.Statement (.psgnjxH rd rs1 rs2) :=
  EncodeLowBits.of_opcode 0b1010011#7 rfl (by decide)

theorem EncodeLowBits.pminS (rd rs1 rs2 : FReg) : EncodeLowBits.Statement (.pminS rd rs1 rs2) :=
  EncodeLowBits.of_opcode 0b1010011#7 rfl (by decide)

theorem EncodeLowBits.pmaxS (rd rs1 rs2 : FReg) : EncodeLowBits.Statement (.pmaxS rd rs1 rs2) :=
  EncodeLowBits.of_opcode 0b1010011#7 rfl (by decide)

theorem EncodeLowBits.pminH (rd rs1 rs2 : FReg) : EncodeLowBits.Statement (.pminH rd rs1 rs2) :=
  EncodeLowBits.of_opcode 0b1010011#7 rfl (by decide)

theorem EncodeLowBits.pmaxH (rd rs1 rs2 : FReg) : EncodeLowBits.Statement (.pmaxH rd rs1 rs2) :=
  EncodeLowBits.of_opcode 0b1010011#7 rfl (by decide)

theorem EncodeLowBits.fpkbbH (rd rs1 rs2 : FReg) : EncodeLowBits.Statement (.fpkbbH rd rs1 rs2) :=
  EncodeLowBits.of_opcode 0b1010011#7 rfl (by decide)

theorem EncodeLowBits.fpkbtH (rd rs1 rs2 : FReg) : EncodeLowBits.Statement (.fpkbtH rd rs1 rs2) :=
  EncodeLowBits.of_opcode 0b1010011#7 rfl (by decide)

theorem EncodeLowBits.fpktbH (rd rs1 rs2 : FReg) : EncodeLowBits.Statement (.fpktbH rd rs1 rs2) :=
  EncodeLowBits.of_opcode 0b1010011#7 rfl (by decide)

theorem EncodeLowBits.fpkttH (rd rs1 rs2 : FReg) : EncodeLowBits.Statement (.fpkttH rd rs1 rs2) :=
  EncodeLowBits.of_opcode 0b1010011#7 rfl (by decide)

theorem EncodeLowBits.fpkbbS (rd rs1 rs2 : FReg) : EncodeLowBits.Statement (.fpkbbS rd rs1 rs2) :=
  EncodeLowBits.of_opcode 0b1010011#7 rfl (by decide)

theorem EncodeLowBits.fpkbtS (rd rs1 rs2 : FReg) : EncodeLowBits.Statement (.fpkbtS rd rs1 rs2) :=
  EncodeLowBits.of_opcode 0b1010011#7 rfl (by decide)

theorem EncodeLowBits.fpktbS (rd rs1 rs2 : FReg) : EncodeLowBits.Statement (.fpktbS rd rs1 rs2) :=
  EncodeLowBits.of_opcode 0b1010011#7 rfl (by decide)

theorem EncodeLowBits.fpkttS (rd rs1 rs2 : FReg) : EncodeLowBits.Statement (.fpkttS rd rs1 rs2) :=
  EncodeLowBits.of_opcode 0b1010011#7 rfl (by decide)

theorem EncodeLowBits.fcvtSD (rd rs1 : FReg) (rm : BitVec 3) : EncodeLowBits.Statement (.fcvtSD rd rs1 rm) :=
  EncodeLowBits.of_opcode 0b1010011#7 rfl (by decide)

theorem EncodeLowBits.fcvtDS (rd rs1 : FReg) (rm : BitVec 3) : EncodeLowBits.Statement (.fcvtDS rd rs1 rm) :=
  EncodeLowBits.of_opcode 0b1010011#7 rfl (by decide)

theorem EncodeLowBits.pcvtSH (rd rs1 : FReg) (rm : BitVec 3) : EncodeLowBits.Statement (.pcvtSH rd rs1 rm) :=
  EncodeLowBits.of_opcode 0b1010011#7 rfl (by decide)

theorem EncodeLowBits.pcvtHS (rd rs1 : FReg) (rm : BitVec 3) : EncodeLowBits.Statement (.pcvtHS rd rs1 rm) :=
  EncodeLowBits.of_opcode 0b1010011#7 rfl (by decide)

theorem EncodeLowBits.fcvtDH (rd rs1 : FReg) (rm : BitVec 3) : EncodeLowBits.Statement (.fcvtDH rd rs1 rm) :=
  EncodeLowBits.of_opcode 0b1010011#7 rfl (by decide)

theorem EncodeLowBits.fcvtHD (rd rs1 : FReg) (rm : BitVec 3) : EncodeLowBits.Statement (.fcvtHD rd rs1 rm) :=
  EncodeLowBits.of_opcode 0b1010011#7 rfl (by decide)

theorem EncodeLowBits.pcvtSBf16 (rd rs1 : FReg) (rm : BitVec 3) : EncodeLowBits.Statement (.pcvtSBf16 rd rs1 rm) :=
  EncodeLowBits.of_opcode 0b1010011#7 rfl (by decide)

theorem EncodeLowBits.pcvtBf16S (rd rs1 : FReg) (rm : BitVec 3) : EncodeLowBits.Statement (.pcvtBf16S rd rs1 rm) :=
  EncodeLowBits.of_opcode 0b1010011#7 rfl (by decide)

theorem EncodeLowBits.fcvtDBf16 (rd rs1 : FReg) (rm : BitVec 3) : EncodeLowBits.Statement (.fcvtDBf16 rd rs1 rm) :=
  EncodeLowBits.of_opcode 0b1010011#7 rfl (by decide)

theorem EncodeLowBits.fcvtBf16D (rd rs1 : FReg) (rm : BitVec 3) : EncodeLowBits.Statement (.fcvtBf16D rd rs1 rm) :=
  EncodeLowBits.of_opcode 0b1010011#7 rfl (by decide)

theorem EncodeLowBits.pcvthiSH (rd rs1 : FReg) (rm : BitVec 3) : EncodeLowBits.Statement (.pcvthiSH rd rs1 rm) :=
  EncodeLowBits.of_opcode 0b1010011#7 rfl (by decide)

theorem EncodeLowBits.pcvthiSBf16 (rd rs1 : FReg) (rm : BitVec 3) : EncodeLowBits.Statement (.pcvthiSBf16 rd rs1 rm) :=
  EncodeLowBits.of_opcode 0b1010011#7 rfl (by decide)

theorem EncodeLowBits.pcvtxSH (rd rs1 : FReg) (rm : XRm) : EncodeLowBits.Statement (.pcvtxSH rd rs1 rm) :=
  EncodeLowBits.of_opcode 0b1010011#7 rfl (by decide)

theorem EncodeLowBits.pcvtxHS (rd rs1 : FReg) (rm : XRm) : EncodeLowBits.Statement (.pcvtxHS rd rs1 rm) :=
  EncodeLowBits.of_opcode 0b1010011#7 rfl (by decide)

theorem EncodeLowBits.pcvtxSBf16 (rd rs1 : FReg) (rm : XRm) : EncodeLowBits.Statement (.pcvtxSBf16 rd rs1 rm) :=
  EncodeLowBits.of_opcode 0b1010011#7 rfl (by decide)

theorem EncodeLowBits.pcvtxBf16S (rd rs1 : FReg) (rm : XRm) : EncodeLowBits.Statement (.pcvtxBf16S rd rs1 rm) :=
  EncodeLowBits.of_opcode 0b1010011#7 rfl (by decide)

theorem EncodeLowBits.psqrtS (rd rs1 : FReg) (rm : BitVec 3) : EncodeLowBits.Statement (.psqrtS rd rs1 rm) :=
  EncodeLowBits.of_opcode 0b1010011#7 rfl (by decide)

theorem EncodeLowBits.fsqrtD (rd rs1 : FReg) (rm : BitVec 3) : EncodeLowBits.Statement (.fsqrtD rd rs1 rm) :=
  EncodeLowBits.of_opcode 0b1010011#7 rfl (by decide)

theorem EncodeLowBits.psqrtH (rd rs1 : FReg) (rm : BitVec 3) : EncodeLowBits.Statement (.psqrtH rd rs1 rm) :=
  EncodeLowBits.of_opcode 0b1010011#7 rfl (by decide)

theorem EncodeLowBits.psqrtxS (rd rs1 : FReg) (rm : XRm) : EncodeLowBits.Statement (.psqrtxS rd rs1 rm) :=
  EncodeLowBits.of_opcode 0b1010011#7 rfl (by decide)

theorem EncodeLowBits.psqrtxD (rd rs1 : FReg) (rm : XRm) : EncodeLowBits.Statement (.psqrtxD rd rs1 rm) :=
  EncodeLowBits.of_opcode 0b1010011#7 rfl (by decide)

theorem EncodeLowBits.prcpaS (rd rs1 : FReg) : EncodeLowBits.Statement (.prcpaS rd rs1) :=
  EncodeLowBits.of_opcode 0b1010011#7 rfl (by decide)

theorem EncodeLowBits.frcpaD (rd rs1 : FReg) : EncodeLowBits.Statement (.frcpaD rd rs1) :=
  EncodeLowBits.of_opcode 0b1010011#7 rfl (by decide)

theorem EncodeLowBits.prcpaH (rd rs1 : FReg) : EncodeLowBits.Statement (.prcpaH rd rs1) :=
  EncodeLowBits.of_opcode 0b1010011#7 rfl (by decide)

theorem EncodeLowBits.psqrtaS (rd rs1 : FReg) : EncodeLowBits.Statement (.psqrtaS rd rs1) :=
  EncodeLowBits.of_opcode 0b1010011#7 rfl (by decide)

theorem EncodeLowBits.fsqrtaD (rd rs1 : FReg) : EncodeLowBits.Statement (.fsqrtaD rd rs1) :=
  EncodeLowBits.of_opcode 0b1010011#7 rfl (by decide)

theorem EncodeLowBits.psqrtaH (rd rs1 : FReg) : EncodeLowBits.Statement (.psqrtaH rd rs1) :=
  EncodeLowBits.of_opcode 0b1010011#7 rfl (by decide)

theorem EncodeLowBits.pmaddS (rd rs1 rs2 rs3 : FReg) (rm : BitVec 3) :
    EncodeLowBits.Statement (.pmaddS rd rs1 rs2 rs3 rm) :=
  EncodeLowBits.of_opcode 0b1000011#7 rfl (by decide)

theorem EncodeLowBits.pmaddH (rd rs1 rs2 rs3 : FReg) (rm : BitVec 3) :
    EncodeLowBits.Statement (.pmaddH rd rs1 rs2 rs3 rm) :=
  EncodeLowBits.of_opcode 0b1000011#7 rfl (by decide)

theorem EncodeLowBits.pmsubS (rd rs1 rs2 rs3 : FReg) (rm : BitVec 3) :
    EncodeLowBits.Statement (.pmsubS rd rs1 rs2 rs3 rm) :=
  EncodeLowBits.of_opcode 0b1000111#7 rfl (by decide)

theorem EncodeLowBits.pmsubH (rd rs1 rs2 rs3 : FReg) (rm : BitVec 3) :
    EncodeLowBits.Statement (.pmsubH rd rs1 rs2 rs3 rm) :=
  EncodeLowBits.of_opcode 0b1000111#7 rfl (by decide)

theorem EncodeLowBits.pnmsubS (rd rs1 rs2 rs3 : FReg) (rm : BitVec 3) :
    EncodeLowBits.Statement (.pnmsubS rd rs1 rs2 rs3 rm) :=
  EncodeLowBits.of_opcode 0b1001011#7 rfl (by decide)

theorem EncodeLowBits.pnmsubH (rd rs1 rs2 rs3 : FReg) (rm : BitVec 3) :
    EncodeLowBits.Statement (.pnmsubH rd rs1 rs2 rs3 rm) :=
  EncodeLowBits.of_opcode 0b1001011#7 rfl (by decide)

theorem EncodeLowBits.pnmaddS (rd rs1 rs2 rs3 : FReg) (rm : BitVec 3) :
    EncodeLowBits.Statement (.pnmaddS rd rs1 rs2 rs3 rm) :=
  EncodeLowBits.of_opcode 0b1001111#7 rfl (by decide)

theorem EncodeLowBits.pnmaddH (rd rs1 rs2 rs3 : FReg) (rm : BitVec 3) :
    EncodeLowBits.Statement (.pnmaddH rd rs1 rs2 rs3 rm) :=
  EncodeLowBits.of_opcode 0b1001111#7 rfl (by decide)

theorem EncodeLowBits.pack (rd rs1 rs2 : XReg) : EncodeLowBits.Statement (.pack rd rs1 rs2) :=
  EncodeLowBits.of_opcode 0b0110011#7 rfl (by decide)

theorem EncodeLowBits.packu (rd rs1 rs2 : XReg) : EncodeLowBits.Statement (.packu rd rs1 rs2) :=
  EncodeLowBits.of_opcode 0b0110011#7 rfl (by decide)

theorem EncodeLowBits.pshufW (rd rs1 : XReg) (imm : BitVec 8) : EncodeLowBits.Statement (.pshufW rd rs1 imm) :=
  EncodeLowBits.of_opcode 0b0011011#7 rfl (by decide)

theorem EncodeLowBits.pfshufW (rd rs1 : FReg) (imm : BitVec 8) : EncodeLowBits.Statement (.pfshufW rd rs1 imm) :=
  EncodeLowBits.of_opcode 0b0011011#7 rfl (by decide)

theorem EncodeLowBits.pkbb16 (rd rs1 rs2 : XReg) : EncodeLowBits.Statement (.pkbb16 rd rs1 rs2) :=
  EncodeLowBits.of_opcode 0b1110111#7 rfl (by decide)

theorem EncodeLowBits.pkbt16 (rd rs1 rs2 : XReg) : EncodeLowBits.Statement (.pkbt16 rd rs1 rs2) :=
  EncodeLowBits.of_opcode 0b1110111#7 rfl (by decide)

theorem EncodeLowBits.pktb16 (rd rs1 rs2 : XReg) : EncodeLowBits.Statement (.pktb16 rd rs1 rs2) :=
  EncodeLowBits.of_opcode 0b1110111#7 rfl (by decide)

theorem EncodeLowBits.pktt16 (rd rs1 rs2 : XReg) : EncodeLowBits.Statement (.pktt16 rd rs1 rs2) :=
  EncodeLowBits.of_opcode 0b1110111#7 rfl (by decide)

theorem EncodeLowBits.pkbb32 (rd rs1 rs2 : XReg) : EncodeLowBits.Statement (.pkbb32 rd rs1 rs2) :=
  EncodeLowBits.of_opcode 0b1110111#7 rfl (by decide)

theorem EncodeLowBits.pkbt32 (rd rs1 rs2 : XReg) : EncodeLowBits.Statement (.pkbt32 rd rs1 rs2) :=
  EncodeLowBits.of_opcode 0b1110111#7 rfl (by decide)

theorem EncodeLowBits.pktb32 (rd rs1 rs2 : XReg) : EncodeLowBits.Statement (.pktb32 rd rs1 rs2) :=
  EncodeLowBits.of_opcode 0b1110111#7 rfl (by decide)

theorem EncodeLowBits.pktt32 (rd rs1 rs2 : XReg) : EncodeLowBits.Statement (.pktt32 rd rs1 rs2) :=
  EncodeLowBits.of_opcode 0b1110111#7 rfl (by decide)

theorem EncodeLowBits.fleS (rd : XReg) (rs1 rs2 : FReg) : EncodeLowBits.Statement (.fleS rd rs1 rs2) :=
  EncodeLowBits.of_opcode 0b1010011#7 rfl (by decide)

theorem EncodeLowBits.fltS (rd : XReg) (rs1 rs2 : FReg) : EncodeLowBits.Statement (.fltS rd rs1 rs2) :=
  EncodeLowBits.of_opcode 0b1010011#7 rfl (by decide)

theorem EncodeLowBits.feqS (rd : XReg) (rs1 rs2 : FReg) : EncodeLowBits.Statement (.feqS rd rs1 rs2) :=
  EncodeLowBits.of_opcode 0b1010011#7 rfl (by decide)

theorem EncodeLowBits.fleD (rd : XReg) (rs1 rs2 : FReg) : EncodeLowBits.Statement (.fleD rd rs1 rs2) :=
  EncodeLowBits.of_opcode 0b1010011#7 rfl (by decide)

theorem EncodeLowBits.fltD (rd : XReg) (rs1 rs2 : FReg) : EncodeLowBits.Statement (.fltD rd rs1 rs2) :=
  EncodeLowBits.of_opcode 0b1010011#7 rfl (by decide)

theorem EncodeLowBits.feqD (rd : XReg) (rs1 rs2 : FReg) : EncodeLowBits.Statement (.feqD rd rs1 rs2) :=
  EncodeLowBits.of_opcode 0b1010011#7 rfl (by decide)

theorem EncodeLowBits.fleH (rd : XReg) (rs1 rs2 : FReg) : EncodeLowBits.Statement (.fleH rd rs1 rs2) :=
  EncodeLowBits.of_opcode 0b1010011#7 rfl (by decide)

theorem EncodeLowBits.fltH (rd : XReg) (rs1 rs2 : FReg) : EncodeLowBits.Statement (.fltH rd rs1 rs2) :=
  EncodeLowBits.of_opcode 0b1010011#7 rfl (by decide)

theorem EncodeLowBits.feqH (rd : XReg) (rs1 rs2 : FReg) : EncodeLowBits.Statement (.feqH rd rs1 rs2) :=
  EncodeLowBits.of_opcode 0b1010011#7 rfl (by decide)

theorem EncodeLowBits.fmvXD (rd : XReg) (rs1 : FReg) : EncodeLowBits.Statement (.fmvXD rd rs1) :=
  EncodeLowBits.of_opcode 0b1010011#7 rfl (by decide)

theorem EncodeLowBits.fmvDX (rd : FReg) (rs1 : XReg) : EncodeLowBits.Statement (.fmvDX rd rs1) :=
  EncodeLowBits.of_opcode 0b1010011#7 rfl (by decide)

theorem EncodeLowBits.sub (rd rs1 rs2 : XReg) : EncodeLowBits.Statement (.sub rd rs1 rs2) :=
  EncodeLowBits.of_opcode 0b0110011#7 rfl (by decide)

theorem EncodeLowBits.jalr (rd rs1 : XReg) (imm : BitVec 12) : EncodeLowBits.Statement (.jalr rd rs1 imm) :=
  EncodeLowBits.of_opcode 0b1100111#7 rfl (by decide)

theorem EncodeLowBits.addi (rd rs1 : XReg) (imm : BitVec 12) : EncodeLowBits.Statement (.addi rd rs1 imm) :=
  EncodeLowBits.of_opcode 0b0010011#7 rfl (by decide)

end Sys2Proof.Laws
end

