-- ==== Sys2Proof/Laws/Step.lean ====
section
/-! SUPPORT. The laws of fetching, loading an instruction word, and stepping. -/

set_option maxRecDepth 4000

namespace Sys2Proof.Machine

/-- The four bytes at `pc` are the bytes of the word fetched (R56). -/
theorem State.fetchBytes_eq_wordBytes (s : State) : s.fetchBytes = wordBytes s.fetchWord := by
  unfold State.fetchBytes wordBytes State.fetchWord State.memRead
  have h : ∀ k, k < 4 → ((joinLanes 8 4 fun k => s.readByte (byteAddr s.pc k)).setWidth 32).extractLsb' (8*k) 8 = s.readByte (byteAddr s.pc k) := by
    intro k hk
    rw [← lane_joinLanes (fun k => s.readByte (byteAddr s.pc k)) (n := 4) (by omega) hk]
    apply BitVec.eq_of_getLsbD_eq
    intro i hi
    rw [getLsbD_lane, BitVec.getLsbD_extractLsb', BitVec.getLsbD_setWidth]
    have : 8 * k + i < 32 := by omega
    simp [this]
  have h0 := h 0 (by omega); have h1 := h 1 (by omega); have h2 := h 2 (by omega); have h3 := h 3 (by omega)
  simp only [Nat.mul_zero, Nat.mul_one, byteAddr_zero] at h0 h1 h2 h3
  rw [h0, h1, h2, h3]

/-- When its three checks pass, the fetch gives the word at `pc` (R45, R46, R54, R56). -/
theorem State.fetch_eq_word {s : State} (ha : s.pc.extractLsb' 0 2 = 0#2) (hv : s.accessValid s.pc 4 = true)
    (hs : s.fetchUnstored = true) : s.fetch = .word s.fetchWord := by
  unfold State.fetch State.fetch.aligned4
  simp [ha, hv, hs]

/-- A machine that has neither trapped nor halted runs (R300, R335). -/
theorem step_eq_stepRunning {s : State} (h : s.trap = none) (hh : s.params.haltPc ≠ some s.pc) :
    step s = stepRunning s := by
  unfold step
  simp [h, hh]

/-- Each byte of a loaded instruction word reads back. -/
theorem State.readByte_loadWord (s : State) (a : Word) (w : InsnWord) (k : Nat) (hk : k < 4) :
    (s.loadWord a w).readByte (byteAddr a k) = lane 8 k (w.setWidth 64) := by
  have inj : ∀ i j, i < 4 → j < 4 → i ≠ j → (byteAddr a j).toNat ≠ (byteAddr a i).toNat := by
    intro i j hi hj hne e
    exact hne (byteAddr_inj (by omega) (by omega) (BitVec.eq_of_toNat_eq e)).symm
  unfold State.loadWord State.readByte
  dsimp only
  rcases (by omega : k = 0 ∨ k = 1 ∨ k = 2 ∨ k = 3) with rfl | rfl | rfl | rfl
  · rw [Memory.read_write_ne _ (inj 3 0 (by omega) (by omega) (by omega)),
      Memory.read_write_ne _ (inj 2 0 (by omega) (by omega) (by omega)),
      Memory.read_write_ne _ (inj 1 0 (by omega) (by omega) (by omega)),
      Memory.read_write_same]; rfl
  · rw [Memory.read_write_ne _ (inj 3 1 (by omega) (by omega) (by omega)),
      Memory.read_write_ne _ (inj 2 1 (by omega) (by omega) (by omega)),
      Memory.read_write_same]; rfl
  · rw [Memory.read_write_ne _ (inj 3 2 (by omega) (by omega) (by omega)),
      Memory.read_write_same]; rfl
  · rw [Memory.read_write_same]; rfl

end Sys2Proof.Machine
end

