-- ==== Sys2Proof/Tests/Slice0.lean ====
section
/-! SUPPORT. Tests of the model: the smoke tests of the well-formedness checks, decoding of words written out from the
spec's patterns, one step of each instruction on the spec's own vectors (96_test_vectors_mem_arith.md,
97_test_vectors_cvt_misc.md), and for every statement with hypotheses a state and operands that meet them. -/

open Sys2Proof Sys2Proof.Machine

set_option maxRecDepth 20000

namespace Sys2Proof.Tests

/-! ### Well-formedness -/

theorem test_wellFormed_accepts :
    Instr.wellFormed (.paddS 12#5 10#5 11#5 0b111#3) = true ∧ Instr.wellFormed (.paddxS 12#5 10#5 14#5 .rne2) = true := by
  decide

/-- A 2x code in the raw field names another constructor's word (R70). -/
theorem test_wellFormed_refuses_noncanonical :
    Instr.canonical (.paddS 12#5 10#5 14#5 0b110#3) = false ∧
      Instr.wellFormed (.paddS 12#5 10#5 14#5 0b110#3) = false := by decide

/-- A 2x code where no X form is listed (R78). -/
theorem test_wellFormed_refuses_wide_rm :
    Instr.rmLegal (.psqrtH 12#5 10#5 0b110#3) = false ∧ Instr.wellFormed (.psqrtH 12#5 10#5 0b110#3) = false := by decide

/-- An odd pair operand (R79). -/
theorem test_wellFormed_refuses_odd_pair :
    Instr.pairsEven (.paddxS 12#5 11#5 14#5 .rne2) = false ∧ Instr.wellFormed (.paddxS 12#5 11#5 14#5 .rne2) = false := by
  decide

/-! ### Decoding -/

/-- The four bytes of the word decode to the instruction, and the instruction encodes to the word. -/
def reads (p : InsnWord × Instr) : Bool := decodeBytes (wordBytes p.1) == .instr p.2 && encode p.2 == p.1

/-- Loads and stores (R101 to R108): each word, written bit by bit from the spec's pattern, reads as its instruction. -/
theorem test_decode_load_store :
    ([(0b10100101110001010001011000000111#32, .flh 12#5 10#5 0xA5C#12),
      (0b10100101110001010010011000000111#32, .flw 12#5 10#5 0xA5C#12),
      (0b10100101110001010011011000000111#32, .fld 12#5 10#5 0xA5C#12),
      (0b10100100111001010001111000100111#32, .fsh 10#5 0xA5C#12 14#5),
      (0b10100100111001010010111000100111#32, .fsw 10#5 0xA5C#12 14#5),
      (0b10100100111001010011111000100111#32, .fsd 10#5 0xA5C#12 14#5),
      (0b10100101110001010100011000000111#32, .flx 12#5 10#5 0xA5C#12),
      (0b10100100111001010100111000100111#32,
      .fsx 10#5 0xA5C#12 14#5)] : List (InsnWord × Instr)).all reads = true := by decide

/-- Packed and scalar arithmetic (R123 to R135): each word, written bit by bit from the spec's pattern,
      reads as its instruction. -/
theorem test_decode_arith :
    ([(0b00000000111001010011011001010011#32, .paddS 12#5 10#5 14#5 0b011#3),
      (0b00001000111001010011011001010011#32, .psubS 12#5 10#5 14#5 0b011#3),
      (0b00010000111001010011011001010011#32, .pmulS 12#5 10#5 14#5 0b011#3),
      (0b00000100111001010011011001010011#32, .paddH 12#5 10#5 14#5 0b011#3),
      (0b00001100111001010011011001010011#32, .psubH 12#5 10#5 14#5 0b011#3),
      (0b00010100111001010011011001010011#32, .pmulH 12#5 10#5 14#5 0b011#3),
      (0b00011000111001010011011001010011#32, .pdivS 12#5 10#5 14#5 0b011#3),
      (0b00011100111001010011011001010011#32, .pdivH 12#5 10#5 14#5 0b011#3),
      (0b00000010111001010011011001010011#32, .faddD 12#5 10#5 14#5 0b011#3),
      (0b00001010111001010011011001010011#32, .fsubD 12#5 10#5 14#5 0b011#3),
      (0b00010010111001010011011001010011#32, .fmulD 12#5 10#5 14#5 0b011#3),
      (0b00011010111001010011011001010011#32,
      .fdivD 12#5 10#5 14#5 0b011#3)] : List (InsnWord × Instr)).all reads = true := by decide

/-- Pair arithmetic, each word with rm 101 and with rm 110 (R137 to R148): each word,
      written bit by bit from the spec's pattern, reads as its instruction. -/
theorem test_decode_arithX :
    ([(0b00000000111001010101011001010011#32, .paddxS 12#5 10#5 14#5 .rtz2),
      (0b00000000111001010110011001010011#32, .paddxS 12#5 10#5 14#5 .rne2),
      (0b00001000111001010101011001010011#32, .psubxS 12#5 10#5 14#5 .rtz2),
      (0b00001000111001010110011001010011#32, .psubxS 12#5 10#5 14#5 .rne2),
      (0b00010000111001010101011001010011#32, .pmulxS 12#5 10#5 14#5 .rtz2),
      (0b00010000111001010110011001010011#32, .pmulxS 12#5 10#5 14#5 .rne2),
      (0b00000010111001010101011001010011#32, .paddxD 12#5 10#5 14#5 .rtz2),
      (0b00000010111001010110011001010011#32, .paddxD 12#5 10#5 14#5 .rne2),
      (0b00001010111001010101011001010011#32, .psubxD 12#5 10#5 14#5 .rtz2),
      (0b00001010111001010110011001010011#32, .psubxD 12#5 10#5 14#5 .rne2),
      (0b00010010111001010101011001010011#32, .pmulxD 12#5 10#5 14#5 .rtz2),
      (0b00010010111001010110011001010011#32, .pmulxD 12#5 10#5 14#5 .rne2),
      (0b00000100111001010101011001010011#32, .paddxH 12#5 10#5 14#5 .rtz2),
      (0b00000100111001010110011001010011#32, .paddxH 12#5 10#5 14#5 .rne2),
      (0b00001100111001010101011001010011#32, .psubxH 12#5 10#5 14#5 .rtz2),
      (0b00001100111001010110011001010011#32, .psubxH 12#5 10#5 14#5 .rne2),
      (0b00010100111001010101011001010011#32, .pmulxH 12#5 10#5 14#5 .rtz2),
      (0b00010100111001010110011001010011#32, .pmulxH 12#5 10#5 14#5 .rne2),
      (0b00011000111001010101011001010011#32, .pdivxS 12#5 10#5 14#5 .rtz2),
      (0b00011000111001010110011001010011#32, .pdivxS 12#5 10#5 14#5 .rne2),
      (0b00011010111001010101011001010011#32, .pdivxD 12#5 10#5 14#5 .rtz2),
      (0b00011010111001010110011001010011#32, .pdivxD 12#5 10#5 14#5 .rne2),
      (0b00011100111001010101011001010011#32, .pdivxH 12#5 10#5 14#5 .rtz2),
      (0b00011100111001010110011001010011#32,
      .pdivxH 12#5 10#5 14#5 .rne2)] : List (InsnWord × Instr)).all reads = true := by decide

/-- Sign injection (R161 to R169): each word, written bit by bit from the spec's pattern, reads as its instruction. -/
theorem test_decode_sign :
    ([(0b00100000111001010000011001010011#32, .psgnjS 12#5 10#5 14#5),
      (0b00100000111001010001011001010011#32, .psgnjnS 12#5 10#5 14#5),
      (0b00100000111001010010011001010011#32, .psgnjxS 12#5 10#5 14#5),
      (0b00100010111001010000011001010011#32, .fsgnjD 12#5 10#5 14#5),
      (0b00100010111001010001011001010011#32, .fsgnjnD 12#5 10#5 14#5),
      (0b00100010111001010010011001010011#32, .fsgnjxD 12#5 10#5 14#5),
      (0b00100100111001010000011001010011#32, .psgnjH 12#5 10#5 14#5),
      (0b00100100111001010001011001010011#32, .psgnjnH 12#5 10#5 14#5),
      (0b00100100111001010010011001010011#32,
      .psgnjxH 12#5 10#5 14#5)] : List (InsnWord × Instr)).all reads = true := by decide

/-- Minimum and maximum (R181 to R184): each word, written bit by bit from the spec's pattern,
      reads as its instruction. -/
theorem test_decode_minmax :
    ([(0b00101000111001010000011001010011#32, .pminS 12#5 10#5 14#5),
      (0b00101000111001010001011001010011#32, .pmaxS 12#5 10#5 14#5),
      (0b00101100111001010000011001010011#32, .pminH 12#5 10#5 14#5),
      (0b00101100111001010001011001010011#32,
      .pmaxH 12#5 10#5 14#5)] : List (InsnWord × Instr)).all reads = true := by decide

/-- Packs (R193 to R199, R186): each word, written bit by bit from the spec's pattern, reads as its instruction. -/
theorem test_decode_pack :
    ([(0b00100000111001010100011001010011#32, .fpkbbH 12#5 10#5 14#5),
      (0b00100000111001010101011001010011#32, .fpkbtH 12#5 10#5 14#5),
      (0b00100000111001010110011001010011#32, .fpktbH 12#5 10#5 14#5),
      (0b00100000111001010111011001010011#32, .fpkttH 12#5 10#5 14#5),
      (0b00100010111001010100011001010011#32, .fpkbbS 12#5 10#5 14#5),
      (0b00100010111001010101011001010011#32, .fpkbtS 12#5 10#5 14#5),
      (0b00100010111001010110011001010011#32, .fpktbS 12#5 10#5 14#5),
      (0b00100010111001010111011001010011#32,
      .fpkttS 12#5 10#5 14#5)] : List (InsnWord × Instr)).all reads = true := by decide

/-- Conversions (R203 to R214): each word, written bit by bit from the spec's pattern, reads as its instruction. -/
theorem test_decode_convert :
    ([(0b01000000000101010011011001010011#32, .fcvtSD 12#5 10#5 0b011#3),
      (0b01000010000001010011011001010011#32, .fcvtDS 12#5 10#5 0b011#3),
      (0b01000000001001010011011001010011#32, .pcvtSH 12#5 10#5 0b011#3),
      (0b01000100000001010011011001010011#32, .pcvtHS 12#5 10#5 0b011#3),
      (0b01000010001001010011011001010011#32, .fcvtDH 12#5 10#5 0b011#3),
      (0b01000100000101010011011001010011#32, .fcvtHD 12#5 10#5 0b011#3),
      (0b01000000011001010011011001010011#32, .pcvtSBf16 12#5 10#5 0b011#3),
      (0b01000100100001010011011001010011#32, .pcvtBf16S 12#5 10#5 0b011#3),
      (0b01000010011001010011011001010011#32, .fcvtDBf16 12#5 10#5 0b011#3),
      (0b01000100100101010011011001010011#32, .fcvtBf16D 12#5 10#5 0b011#3),
      (0b01000000101001010011011001010011#32, .pcvthiSH 12#5 10#5 0b011#3),
      (0b01000000111001010011011001010011#32,
      .pcvthiSBf16 12#5 10#5 0b011#3)] : List (InsnWord × Instr)).all reads = true := by decide

/-- Pair conversions (R215 to R218): each word, written bit by bit from the spec's pattern, reads as its instruction. -/
theorem test_decode_convertX :
    ([(0b01000000001001010101011001010011#32, .pcvtxSH 12#5 10#5 .rtz2),
      (0b01000000001001010110011001010011#32, .pcvtxSH 12#5 10#5 .rne2),
      (0b01000100000001010101011001010011#32, .pcvtxHS 12#5 10#5 .rtz2),
      (0b01000100000001010110011001010011#32, .pcvtxHS 12#5 10#5 .rne2),
      (0b01000000011001010101011001010011#32, .pcvtxSBf16 12#5 10#5 .rtz2),
      (0b01000000011001010110011001010011#32, .pcvtxSBf16 12#5 10#5 .rne2),
      (0b01000100100001010101011001010011#32, .pcvtxBf16S 12#5 10#5 .rtz2),
      (0b01000100100001010110011001010011#32,
      .pcvtxBf16S 12#5 10#5 .rne2)] : List (InsnWord × Instr)).all reads = true := by decide

/-- Square roots and helper operations (R234 to R245): each word, written bit by bit from the spec's pattern,
      reads as its instruction. -/
theorem test_decode_sqrt_helper :
    ([(0b01011000000001010011011001010011#32, .psqrtS 12#5 10#5 0b011#3),
      (0b01011010000001010011011001010011#32, .fsqrtD 12#5 10#5 0b011#3),
      (0b01011100000001010011011001010011#32, .psqrtH 12#5 10#5 0b011#3),
      (0b01011000000001010101011001010011#32, .psqrtxS 12#5 10#5 .rtz2),
      (0b01011000000001010110011001010011#32, .psqrtxS 12#5 10#5 .rne2),
      (0b01011010000001010101011001010011#32, .psqrtxD 12#5 10#5 .rtz2),
      (0b01011010000001010110011001010011#32, .psqrtxD 12#5 10#5 .rne2),
      (0b11110000000101010001011001010011#32, .prcpaS 12#5 10#5),
      (0b11110010000101010001011001010011#32, .frcpaD 12#5 10#5),
      (0b11110100000101010001011001010011#32, .prcpaH 12#5 10#5),
      (0b11110000001001010001011001010011#32, .psqrtaS 12#5 10#5),
      (0b11110010001001010001011001010011#32, .fsqrtaD 12#5 10#5),
      (0b11110100001001010001011001010011#32,
      .psqrtaH 12#5 10#5)] : List (InsnWord × Instr)).all reads = true := by decide

/-- The PMADD family (R254 to R261): each word, written bit by bit from the spec's pattern, reads as its instruction. -/
theorem test_decode_fma :
    ([(0b11011000111001010011011001000011#32, .pmaddS 12#5 10#5 14#5 27#5 0b011#3),
      (0b11011100111001010011011001000011#32, .pmaddH 12#5 10#5 14#5 27#5 0b011#3),
      (0b11011000111001010011011001000111#32, .pmsubS 12#5 10#5 14#5 27#5 0b011#3),
      (0b11011100111001010011011001000111#32, .pmsubH 12#5 10#5 14#5 27#5 0b011#3),
      (0b11011000111001010011011001001011#32, .pnmsubS 12#5 10#5 14#5 27#5 0b011#3),
      (0b11011100111001010011011001001011#32, .pnmsubH 12#5 10#5 14#5 27#5 0b011#3),
      (0b11011000111001010011011001001111#32, .pnmaddS 12#5 10#5 14#5 27#5 0b011#3),
      (0b11011100111001010011011001001111#32,
      .pnmaddH 12#5 10#5 14#5 27#5 0b011#3)] : List (InsnWord × Instr)).all reads = true := by decide

/-- Misc instructions (R271 to R283): each word, written bit by bit from the spec's pattern,
      reads as its instruction. -/
theorem test_decode_misc :
    ([(0b00001000111001010100011000110011#32, .pack 12#5 10#5 14#5),
      (0b01001000111001010100011000110011#32, .packu 12#5 10#5 14#5),
      (0b01000001101101010001011000011011#32, .pshufW 12#5 10#5 0x1B#8),
      (0b01100001101101010001011000011011#32, .pfshufW 12#5 10#5 0x1B#8),
      (0b00001110111001010001011001110111#32, .pkbb16 12#5 10#5 14#5),
      (0b00011110111001010001011001110111#32, .pkbt16 12#5 10#5 14#5),
      (0b00101110111001010001011001110111#32, .pktb16 12#5 10#5 14#5),
      (0b00111110111001010001011001110111#32, .pktt16 12#5 10#5 14#5),
      (0b00001110111001010010011001110111#32, .pkbb32 12#5 10#5 14#5),
      (0b00011110111001010010011001110111#32, .pkbt32 12#5 10#5 14#5),
      (0b00101110111001010010011001110111#32, .pktb32 12#5 10#5 14#5),
      (0b00111110111001010010011001110111#32,
      .pktt32 12#5 10#5 14#5)] : List (InsnWord × Instr)).all reads = true := by decide

/-- Compares (R171 to R179): each word, written bit by bit from the spec's pattern, reads as its instruction. -/
theorem test_decode_compare :
    ([(0b10100000111001010000011001010011#32, .fleS 12#5 10#5 14#5),
      (0b10100000111001010001011001010011#32, .fltS 12#5 10#5 14#5),
      (0b10100000111001010010011001010011#32, .feqS 12#5 10#5 14#5),
      (0b10100010111001010000011001010011#32, .fleD 12#5 10#5 14#5),
      (0b10100010111001010001011001010011#32, .fltD 12#5 10#5 14#5),
      (0b10100010111001010010011001010011#32, .feqD 12#5 10#5 14#5),
      (0b10100100111001010000011001010011#32, .fleH 12#5 10#5 14#5),
      (0b10100100111001010001011001010011#32, .fltH 12#5 10#5 14#5),
      (0b10100100111001010010011001010011#32,
      .feqH 12#5 10#5 14#5)] : List (InsnWord × Instr)).all reads = true := by decide

/-- Imported base instructions (R291 to R296): each word, written bit by bit from the spec's pattern,
      reads as its instruction. -/
theorem test_decode_imports :
    ([(0b11100010000001010000011001010011#32, .fmvXD 12#5 10#5),
      (0b11110010000001010000011001010011#32, .fmvDX 12#5 10#5),
      (0b01000000111001010000011000110011#32, .sub 12#5 10#5 14#5),
      (0b10100101110001010000011001100111#32, .jalr 12#5 10#5 0xA5C#12),
      (0b10100101110001010000011000010011#32,
      .addi 12#5 10#5 0xA5C#12)] : List (InsnWord × Instr)).all reads = true := by decide

/-- The reserved words and the words outside the spec of 97_test_vectors_cvt_misc.md section 2.12 and 2.9. -/
theorem test_decode_other_words :
    decode 0x06B57653#32 = .reserved .typeBits ∧ decode 0x6EB57643#32 = .reserved .typeBits ∧
      decode 0x00058507#32 = .reserved .loadStoreWidth ∧ decode 0x0005D507#32 = .reserved .loadStoreWidth ∧
      decode 0x20B53653#32 = .reserved .unassigned ∧ decode 0xF0351653#32 = .reserved .unassigned ∧
      decode 0x58157653#32 = .reserved .unassigned ∧ decode 0x28B52653#32 = .reserved .unassigned ∧
      decode 0x2AB50653#32 = .notOfThisSpec ∧ decode 0x6AB57643#32 = .notOfThisSpec ∧
      decode 0x00B50533#32 = .notOfThisSpec ∧ decode 0x00000000#32 = .notOfThisSpec ∧
      decodeBytes [0x13#8, 0x00#8] = .truncated := by decide

/-! ### One step -/

/-- The reset state with registers set. -/
def start (fs : List (FReg × Word)) (xs : List (XReg × Word)) : State :=
  xs.foldl (fun s p => s.setX p.1 p.2) (fs.foldl (fun s p => s.setF p.1 p.2) State.reset)

/-- The result is a next state with the property. -/
def ends (r : Result) (P : State → Bool) : Bool :=
  match r with
  | .next t => P t
  | .fault _ => false
  | .refused _ => false

/-- The step that runs the word `w` next. -/
def runs (w : Nat) (s : State) : Result := step (s.withFetchWord 32 w)

/-- From the start state the word runs to the next instruction without an exception, leaving these registers and these
accrued flags. -/
def runsTo (w : Nat) (fs : List (FReg × Word)) (xs : List (XReg × Word)) (fs' : List (FReg × Word))
    (xs' : List (XReg × Word)) (fl : FpFlags) : Bool :=
  ends (runs w (start fs xs)) fun t =>
    t.trap == none && t.pc == 0x1004#64 && fs'.all (fun p => t.getF p.1 == p.2) &&
      xs'.all (fun p => t.getX p.1 == p.2) && t.fflags == fl

/-- The word traps at `pc` 0x1000 with this cause. -/
def trapsWith (w : Nat) (s : State) (e : Cause) : Bool := ends (runs w s) fun t => t.trap == some ⟨e, 0x1000#64⟩

/-- The start state of the load vectors, with another base register. -/
def loadStart (base : Word) : State :=
  (((start [] [(11, base)]).memWrite 0x2000#64 0x4400420040003C00#64 8).memWrite 0x2008#64 0x4800470046004500#64
    8).memWrite 0x2010#64 0x8877665544332211#64 8

/-- The start state of the store vectors. -/
def storeStart (base : Word) : State :=
  ((start [(10, 0x4400420040003C00#64), (11, 0x4800470046004500#64)] [(11, base)]).memWrite 0x3000#64
    0xEEEEEEEEEEEEEEEE#64 8).memWrite 0x3008#64 0xEEEEEEEEEEEEEEEE#64 8

/-- The load vector ends with these registers. -/
def loads (w : Nat) (base : Word) (fs' : List (FReg × Word)) : Bool :=
  ends (runs w (loadStart base)) fun t => t.trap == none && fs'.all fun p => t.getF p.1 == p.2

/-- The store vector ends with this doubleword at an address. -/
def stores (w : Nat) (base a v : Word) : Bool :=
  ends (runs w (storeStart base)) fun t => t.trap == none && t.memRead a 8 == v

theorem test_flh : loads 0x00259507 0x2000#64 [(10, 0xFFFFFFFFFFFF4000#64)] = true := by decide

theorem test_flw_raw_bits : loads 0x0105A507 0x2000#64 [(10, 0xFFFFFFFF44332211#64)] = true := by decide

theorem test_fld_negative_displacement : loads 0xFF85B507 0x2008#64 [(10, 0x4400420040003C00#64)] = true := by decide

theorem test_fld_largest_displacement : loads 0x7FF5B507 0x1801#64 [(10, 0x4400420040003C00#64)] = true := by decide

theorem test_flx_at_8_not_16 :
    loads 0x0085C607 0x2000#64 [(12, 0x4800470046004500#64), (13, 0x8877665544332211#64)] = true := by decide

theorem test_flx_misaligned :
    trapsWith 0x0045C607 (loadStart 0x2000#64) (.loadAddressMisaligned 0x2004#64) = true := by decide

theorem test_fsh : stores 0x00A59127 0x3000#64 0x3000#64 0xEEEEEEEE3C00EEEE#64 = true := by decide

theorem test_fsw : stores 0x00A5A227 0x3000#64 0x3000#64 0x40003C00EEEEEEEE#64 = true := by decide

theorem test_fsd_most_negative_displacement :
    stores 0x80A5B027 0x3800#64 0x3000#64 0x4400420040003C00#64 = true := by decide

theorem test_fsd_split_immediate : stores 0x00A5BFA7 0x2FE1#64 0x3000#64 0x4400420040003C00#64 = true := by decide

theorem test_fsx :
    (stores 0x00A5C827 0x3000#64 0x3010#64 0x4400420040003C00#64 &&
      stores 0x00A5C827 0x3000#64 0x3018#64 0x4800470046004500#64) = true := by decide

theorem test_fsx_odd_pair :
    trapsWith 0x00B5C827 (storeStart 0x3000#64) (.illegalInstruction 0x00B5C827#32) = true := by decide

/-- The helper operations run, with whatever their function gives (R238). -/
theorem test_helpers_run :
    ([0xF0151653, 0xF2151653, 0xF4151653, 0xF0251653, 0xF2251653, 0xF4251653].all fun w =>
      ends (runs w State.reset) fun t => t.trap == none && t.pc == 0x1004#64) = true := by decide

theorem test_jalr :
    ends (runs 0x000280E7 (start [] [(5,
      0x1101#64)])) (fun t => t.pc == 0x1100#64 && t.getX 1 == 0x1004#64) = true := by
  decide

theorem test_jalr_misaligned :
    trapsWith 0x002280E7 (start [] [(5, 0x1100#64)]) (.instructionAddressMisaligned 0x1102#64) = true := by decide

theorem test_paddS_overflow_and_tie : runsTo 0x00B57653 [(10, 0x7F7FFFFF3F800000#64), (11, 0x7F7FFFFF33800000#64)] []
    [(12, 0x7F8000003F800000#64)] [] 0b00101#5 = true := by decide

theorem test_paddS_signalling_nan : runsTo 0x00B57653 [(10, 0x7FA000003F800000#64), (11, 0x3F8000003F800000#64)] []
    [(12, 0x7FC0000040000000#64)] [] 0b10000#5 = true := by decide

theorem test_psubS_inf_minus_inf : runsTo 0x08B57653 [(10, 0x7F8000003F800000#64), (11, 0x7F8000003F800000#64)] []
    [(12, 0x7FC0000000000000#64)] [] 0b10000#5 = true := by decide

theorem test_psubS_exact_zero_rdn : runsTo 0x08B52653 [(10, 0x7F8000003F800000#64), (11, 0x7F8000003F800000#64)] []
    [(12, 0x7FC0000080000000#64)] [] 0b10000#5 = true := by decide

theorem test_pmulS : runsTo 0x10B57653 [(10, 0x400000003F800000#64), (11, 0x4080000040400000#64)] []
    [(12, 0x4100000040400000#64)] [] 0b00000#5 = true := by decide

theorem test_pmulS_inf_times_zero : runsTo 0x10B57653 [(10, 0x7F800000BF800000#64), (11, 0x0000000000000000#64)] []
    [(12, 0x7FC0000080000000#64)] [] 0b10000#5 = true := by decide

theorem test_paddH_overflow_and_tie : runsTo 0x04B57653 [(10, 0x7BFF7BFF3C006800#64), (11, 0x7BFF70003C003C00#64)] []
    [(12, 0x7C007C0040006800#64)] [] 0b00101#5 = true := by decide

theorem test_psubH : runsTo 0x0CB57653 [(10, 0x4400420040003C00#64), (11, 0x3800380038003800#64)] []
    [(12, 0x430041003E003800#64)] [] 0b00000#5 = true := by decide

theorem test_pmulH_underflow : runsTo 0x14B57653 [(10, 0x0001040000013C01#64), (11, 0x3800380000013C01#64)] []
    [(12, 0x0000020000003C02#64)] [] 0b00011#5 = true := by decide

theorem test_pdivS_rtz : runsTo 0x18B51653 [(10, 0x400000003F800000#64), (11, 0x4080000040400000#64)] []
    [(12, 0x3F0000003EAAAAAA#64)] [] 0b00001#5 = true := by decide

theorem test_pdivS_by_zero : runsTo 0x18B57653 [(10, 0x000000003F800000#64), (11, 0x0000000080000000#64)] []
    [(12, 0x7FC00000FF800000#64)] [] 0b11000#5 = true := by decide

theorem test_pdivH_by_zero : runsTo 0x1CB57653 [(10, 0x3C003C003C003C00#64), (11, 0x4200000080007C00#64)] []
    [(12, 0x35557C00FC000000#64)] [] 0b01001#5 = true := by decide

theorem test_paddxS : runsTo 0x00E56653 [(10, 0x400000003F800000#64), (11, 0x4080000040400000#64), (14,
      0x41A0000041200000#64), (15, 0x4220000041F00000#64)] []
    [(12, 0x41B0000041300000#64), (13, 0x4230000042040000#64)] [] 0b00000#5 = true := by decide

theorem test_psubxS : runsTo 0x08E56653 [(10, 0x400000003F800000#64), (11, 0x4080000040400000#64), (14,
      0x41A0000041200000#64), (15, 0x4220000041F00000#64)] []
    [(12, 0xC1900000C1100000#64), (13, 0xC2100000C1D80000#64)] [] 0b00000#5 = true := by decide

theorem test_pmulxS : runsTo 0x10E56653 [(10, 0x400000003F800000#64), (11, 0x4080000040400000#64), (14,
      0x41A0000041200000#64), (15, 0x4220000041F00000#64)] []
    [(12, 0x4220000041200000#64), (13, 0x4320000042B40000#64)] [] 0b00000#5 = true := by decide

theorem test_paddxD : runsTo 0x02E56653 [(10, 0x3FF8000000000000#64), (11, 0x4002000000000000#64), (14,
      0x4000000000000000#64), (15, 0x3FE0000000000000#64)] []
    [(12, 0x400C000000000000#64), (13, 0x4006000000000000#64)] [] 0b00000#5 = true := by decide

theorem test_faddD : runsTo 0x02B57653 [(10, 0x3FF8000000000000#64), (11, 0x4002000000000000#64)] []
    [(12, 0x400E000000000000#64)] [] 0b00000#5 = true := by decide

theorem test_psubxD : runsTo 0x0AE56653 [(10, 0x3FF8000000000000#64), (11, 0x4002000000000000#64), (14,
      0x4000000000000000#64), (15, 0x3FE0000000000000#64)] []
    [(12, 0xBFE0000000000000#64), (13, 0x3FFC000000000000#64)] [] 0b00000#5 = true := by decide

theorem test_fsubD : runsTo 0x0AB57653 [(10, 0x3FF8000000000000#64), (11, 0x4002000000000000#64)] []
    [(12, 0xBFE8000000000000#64)] [] 0b00000#5 = true := by decide

theorem test_pmulxD : runsTo 0x12E56653 [(10, 0x3FF8000000000000#64), (11, 0x4002000000000000#64), (14,
      0x4000000000000000#64), (15, 0x3FE0000000000000#64)] []
    [(12, 0x4008000000000000#64), (13, 0x3FF2000000000000#64)] [] 0b00000#5 = true := by decide

theorem test_fmulD : runsTo 0x12B57653 [(10, 0x3FF8000000000000#64), (11, 0x4002000000000000#64)] []
    [(12, 0x400B000000000000#64)] [] 0b00000#5 = true := by decide

theorem test_paddxH : runsTo 0x04E56653 [(10, 0x4400420040003C00#64), (11, 0x4800470046004500#64), (14,
      0x3800380038003800#64), (15, 0x3800380038003800#64)] []
    [(12, 0x4480430041003E00#64), (13, 0x4840478046804580#64)] [] 0b00000#5 = true := by decide

theorem test_psubxH : runsTo 0x0CE56653 [(10, 0x4400420040003C00#64), (11, 0x4800470046004500#64), (14,
      0x3800380038003800#64), (15, 0x3800380038003800#64)] []
    [(12, 0x430041003E003800#64), (13, 0x4780468045804480#64)] [] 0b00000#5 = true := by decide

theorem test_pmulxH : runsTo 0x14E56653 [(10, 0x4400420040003C00#64), (11, 0x4800470046004500#64), (14,
      0x3800380038003800#64), (15, 0x3800380038003800#64)] []
    [(12, 0x40003E003C003800#64), (13, 0x4400430042004100#64)] [] 0b00000#5 = true := by decide

theorem test_pdivxS_rtz : runsTo 0x18E55653 [(10, 0x400000003F800000#64), (11, 0x4080000040400000#64), (14,
      0x41A0000041200000#64), (15, 0x4220000041F00000#64)] []
    [(12, 0x3DCCCCCC3DCCCCCC#64), (13, 0x3DCCCCCC3DCCCCCC#64)] [] 0b00001#5 = true := by decide

theorem test_pdivxD : runsTo 0x1AE56653 [(10, 0x3FF8000000000000#64), (11, 0x4002000000000000#64), (14,
      0x4000000000000000#64), (15, 0x3FE0000000000000#64)] []
    [(12, 0x3FE8000000000000#64), (13, 0x4012000000000000#64)] [] 0b00000#5 = true := by decide

theorem test_fdivD : runsTo 0x1AB57653 [(10, 0x3FF8000000000000#64), (11, 0x4002000000000000#64)] []
    [(12, 0x3FE5555555555555#64)] [] 0b00001#5 = true := by decide

theorem test_pdivxH : runsTo 0x1CE56653 [(10, 0x4400420040003C00#64), (11, 0x4800470046004500#64), (14,
      0x3800380038003800#64), (15, 0x3800380038003800#64)] []
    [(12, 0x4800460044004000#64), (13, 0x4C004B004A004900#64)] [] 0b00000#5 = true := by decide

theorem test_psgnjS : runsTo 0x20B50653 [(10, 0x40000000BF800000#64), (11, 0x80000000FFC00000#64)] []
    [(12, 0xC0000000BF800000#64)] [] 0b00000#5 = true := by decide

theorem test_psgnjnS : runsTo 0x20B51653 [(10, 0x40000000BF800000#64), (11, 0x80000000FFC00000#64)] []
    [(12, 0x400000003F800000#64)] [] 0b00000#5 = true := by decide

theorem test_psgnjxS : runsTo 0x20B52653 [(10, 0x40000000BF800000#64), (11, 0x80000000FFC00000#64)] []
    [(12, 0xC00000003F800000#64)] [] 0b00000#5 = true := by decide

theorem test_fsgnjD : runsTo 0x22B50653 [(10, 0x3FF8000000000000#64), (11, 0xFFFFFFFFFFFFFFFF#64)] []
    [(12, 0xBFF8000000000000#64)] [] 0b00000#5 = true := by decide

theorem test_fsgnjnD : runsTo 0x22B51653 [(10, 0x3FF8000000000000#64), (11, 0xFFFFFFFFFFFFFFFF#64)] []
    [(12, 0x3FF8000000000000#64)] [] 0b00000#5 = true := by decide

theorem test_fsgnjxD : runsTo 0x22B52653 [(10, 0x3FF8000000000000#64), (11, 0xFFFFFFFFFFFFFFFF#64)] []
    [(12, 0xBFF8000000000000#64)] [] 0b00000#5 = true := by decide

theorem test_psgnjH : runsTo 0x24B50653 [(10, 0x4400C20040003C00#64), (11, 0x80008000FFFF7E00#64)] []
    [(12, 0xC400C200C0003C00#64)] [] 0b00000#5 = true := by decide

theorem test_psgnjnH : runsTo 0x24B51653 [(10, 0x4400C20040003C00#64), (11, 0x80008000FFFF7E00#64)] []
    [(12, 0x440042004000BC00#64)] [] 0b00000#5 = true := by decide

theorem test_psgnjxH : runsTo 0x24B52653 [(10, 0x4400C20040003C00#64), (11, 0x80008000FFFF7E00#64)] []
    [(12, 0xC4004200C0003C00#64)] [] 0b00000#5 = true := by decide

theorem test_pminS : runsTo 0x28B50653 [(10, 0x408000003F800000#64), (11, 0x4000000040400000#64)] []
    [(12, 0x400000003F800000#64)] [] 0b00000#5 = true := by decide

theorem test_pminS_zeros_and_nan : runsTo 0x28B50653 [(10, 0x7FC0000080000000#64), (11, 0x3F80000000000000#64)] []
    [(12, 0x3F80000080000000#64)] [] 0b00000#5 = true := by decide

theorem test_pmaxS_zeros_and_nan : runsTo 0x28B51653 [(10, 0x7FC0000080000000#64), (11, 0x3F80000000000000#64)] []
    [(12, 0x3F80000000000000#64)] [] 0b00000#5 = true := by decide

theorem test_pmaxS_signalling_nan : runsTo 0x28B51653 [(10, 0x7FA000003F800000#64), (11, 0x3F8000003F800000#64)] []
    [(12, 0x3F8000003F800000#64)] [] 0b10000#5 = true := by decide

theorem test_pminH : runsTo 0x2CB50653 [(10, 0x4400C20040003C00#64), (11, 0x3C0042007E00BC00#64)] []
    [(12, 0x3C00C2004000BC00#64)] [] 0b00000#5 = true := by decide

theorem test_pmaxH : runsTo 0x2CB51653 [(10, 0x4400C20040003C00#64), (11, 0x3C0042007E00BC00#64)] []
    [(12, 0x4400420040003C00#64)] [] 0b00000#5 = true := by decide

theorem test_fpkbbH : runsTo 0x20B54653 [(10, 0x4400420040003C00#64), (11, 0x4800470046004500#64)] []
    [(12, 0x000000003C004500#64)] [] 0b00000#5 = true := by decide

theorem test_fpkbtH : runsTo 0x20B55653 [(10, 0x4400420040003C00#64), (11, 0x4800470046004500#64)] []
    [(12, 0x000000003C004600#64)] [] 0b00000#5 = true := by decide

theorem test_fpktbH : runsTo 0x20B56653 [(10, 0x4400420040003C00#64), (11, 0x4800470046004500#64)] []
    [(12, 0x0000000040004500#64)] [] 0b00000#5 = true := by decide

theorem test_fpkttH : runsTo 0x20B57653 [(10, 0x4400420040003C00#64), (11, 0x4800470046004500#64)] []
    [(12, 0x0000000040004600#64)] [] 0b00000#5 = true := by decide

theorem test_fpkbbS : runsTo 0x22B54653 [(10, 0x400000003F800000#64), (11, 0x4080000040400000#64)] []
    [(12, 0x3F80000040400000#64)] [] 0b00000#5 = true := by decide

theorem test_fpkbtS : runsTo 0x22B55653 [(10, 0x400000003F800000#64), (11, 0x4080000040400000#64)] []
    [(12, 0x3F80000040800000#64)] [] 0b00000#5 = true := by decide

theorem test_fpktbS : runsTo 0x22B56653 [(10, 0x400000003F800000#64), (11, 0x4080000040400000#64)] []
    [(12, 0x4000000040400000#64)] [] 0b00000#5 = true := by decide

theorem test_fpkttS : runsTo 0x22B57653 [(10, 0x400000003F800000#64), (11, 0x4080000040400000#64)] []
    [(12, 0x4000000040800000#64)] [] 0b00000#5 = true := by decide

theorem test_fcvtSD_rtz : runsTo 0x40151653 [(10, 0x3FB999999999999A#64)] []
    [(12, 0xFFFFFFFF3DCCCCCC#64)] [] 0b00001#5 = true := by decide

theorem test_fcvtSD_underflow : runsTo 0x40157653 [(10, 0x3690000000000000#64)] []
    [(12, 0xFFFFFFFF00000000#64)] [] 0b00011#5 = true := by decide

theorem test_fcvtDS : runsTo 0x42057653 [(10, 0x400000003FC00000#64)] []
    [(12, 0x3FF8000000000000#64)] [] 0b00000#5 = true := by decide

theorem test_fcvtDS_signalling_nan : runsTo 0x42057653 [(10, 0xFFFFFFFF7FA00000#64)] []
    [(12, 0x7FF8000000000000#64)] [] 0b10000#5 = true := by decide

theorem test_pcvtSH_nan_and_subnormal : runsTo 0x40257653 [(10, 0x000000007D000001#64)] []
    [(12, 0x7FC0000033800000#64)] [] 0b10000#5 = true := by decide

theorem test_pcvtHS_rup : runsTo 0x44053653 [(10, 0x3F8030003F801000#64)] []
    [(12, 0xFFFFFFFF3C023C01#64)] [] 0b00001#5 = true := by decide

theorem test_pcvtHS_overflow_and_underflow_rtz : runsTo 0x44051653 [(10, 0x4780000033000000#64)] []
    [(12, 0xFFFFFFFF7BFF0000#64)] [] 0b00111#5 = true := by decide

theorem test_fcvtDH : runsTo 0x42257653 [(10, 0x4400420040003E00#64)] []
    [(12, 0x3FF8000000000000#64)] [] 0b00000#5 = true := by decide

theorem test_fcvtHD : runsTo 0x44157653 [(10, 0x3FF8000000000000#64)] []
    [(12, 0xFFFFFFFFFFFF3E00#64)] [] 0b00000#5 = true := by decide

theorem test_fcvtHD_overflow : runsTo 0x44157653 [(10, 0x40EFFE0000000000#64)] []
    [(12, 0xFFFFFFFFFFFF7C00#64)] [] 0b00101#5 = true := by decide

theorem test_pcvtSBf16 : runsTo 0x40657653 [(10, 0x4080404040003F80#64)] []
    [(12, 0x400000003F800000#64)] [] 0b00000#5 = true := by decide

theorem test_pcvtBf16S_ties : runsTo 0x44857653 [(10, 0x3F8180003F808000#64)] []
    [(12, 0xFFFFFFFF3F823F80#64)] [] 0b00001#5 = true := by decide

theorem test_fcvtDBf16 : runsTo 0x42657653 [(10, 0x0000000000003FC0#64)] []
    [(12, 0x3FF8000000000000#64)] [] 0b00000#5 = true := by decide

theorem test_fcvtBf16D_inexact : runsTo 0x44957653 [(10, 0x3FF0100000000000#64)] []
    [(12, 0xFFFFFFFFFFFF3F80#64)] [] 0b00001#5 = true := by decide

theorem test_pcvthiSH : runsTo 0x40A57653 [(10, 0x4400420040003C00#64)] []
    [(12, 0x4080000040400000#64)] [] 0b00000#5 = true := by decide

theorem test_pcvthiSBf16 : runsTo 0x40E57653 [(10, 0x4080404040003F80#64)] []
    [(12, 0x4080000040400000#64)] [] 0b00000#5 = true := by decide

theorem test_pcvtxSH : runsTo 0x40256653 [(10, 0x4400420040003C00#64)] []
    [(12, 0x400000003F800000#64), (13, 0x4080000040400000#64)] [] 0b00000#5 = true := by decide

theorem test_pcvtxSH_onto_source : runsTo 0x40256553 [(10, 0x4400420040003C00#64)] []
    [(10, 0x400000003F800000#64), (11, 0x4080000040400000#64)] [] 0b00000#5 = true := by decide

theorem test_pcvtxHS : runsTo 0x44056653 [(10, 0x400000003F800000#64), (11, 0x4080000040400000#64)] []
    [(12, 0x4400420040003C00#64)] [] 0b00000#5 = true := by decide

theorem test_pcvtxHS_rtz : runsTo 0x44055653 [(10, 0x3F8030003F801000#64), (11, 0x4780000033000000#64)] []
    [(12, 0x7BFF00003C013C00#64)] [] 0b00111#5 = true := by decide

theorem test_pcvtxSBf16 : runsTo 0x40656653 [(10, 0x4080404040003F80#64)] []
    [(12, 0x400000003F800000#64), (13, 0x4080000040400000#64)] [] 0b00000#5 = true := by decide

theorem test_pcvtxBf16S : runsTo 0x44856653 [(10, 0x400000003F800000#64), (11, 0x4080000040400000#64)] []
    [(12, 0x4080404040003F80#64)] [] 0b00000#5 = true := by decide

theorem test_psqrtS_negative : runsTo 0x58057653 [(10, 0xBF80000040000000#64)] []
    [(12, 0x7FC000003FB504F3#64)] [] 0b10001#5 = true := by decide

theorem test_psqrtS_negative_rup : runsTo 0x58053653 [(10, 0xBF80000040000000#64)] []
    [(12, 0x7FC000003FB504F4#64)] [] 0b10001#5 = true := by decide

theorem test_fsqrtD : runsTo 0x5A057653 [(10, 0x4002000000000000#64)] []
    [(12, 0x3FF8000000000000#64)] [] 0b00000#5 = true := by decide

theorem test_psqrtH_inexact : runsTo 0x5C057653 [(10, 0x0001400042004500#64)] []
    [(12, 0x0C003DA83EEE4079#64)] [] 0b00001#5 = true := by decide

theorem test_psqrtxS : runsTo 0x58056653 [(10, 0x4110000040800000#64), (11, 0x41C8000041800000#64)] []
    [(12, 0x4040000040000000#64), (13, 0x40A0000040800000#64)] [] 0b00000#5 = true := by decide

theorem test_psqrtxD : runsTo 0x5A056653 [(10, 0x4002000000000000#64), (11, 0x4010000000000000#64)] []
    [(12, 0x3FF8000000000000#64), (13, 0x4000000000000000#64)] [] 0b00000#5 = true := by decide

theorem test_pmaddS : runsTo 0x68B57643 [(10, 0x400000003F800000#64), (11, 0x4080000040400000#64), (13,
      0x3F0000003F000000#64)] []
    [(12, 0x4108000040600000#64)] [] 0b00000#5 = true := by decide

theorem test_pmaddS_nan_and_invalid : runsTo 0x68B57643 [(10, 0x7F8000003F800000#64), (11, 0x000000003F800000#64),
      (13, 0x7FC000003F800000#64)] []
    [(12, 0x7FC0000040000000#64)] [] 0b10000#5 = true := by decide

theorem test_pmaddH : runsTo 0x6CB57643 [(10, 0x4400420040003C00#64), (11, 0x4000400040004000#64), (13,
      0x3800380038003800#64)] []
    [(12, 0x4840468044804100#64)] [] 0b00000#5 = true := by decide

theorem test_pmaddH_rounds_once : runsTo 0x6CB57643 [(10, 0x3C013C013C013C01#64), (11, 0x3C013C013C013C01#64), (13,
      0xBC02BC02BC02BC02#64)] []
    [(12, 0x0010001000100010#64)] [] 0b00000#5 = true := by decide

theorem test_pmsubS : runsTo 0x68B57647 [(10, 0x400000003F800000#64), (11, 0x4080000040400000#64), (13,
      0x3F0000003F000000#64)] []
    [(12, 0x40F0000040200000#64)] [] 0b00000#5 = true := by decide

theorem test_pmsubH : runsTo 0x6CB57647 [(10, 0x4400420040003C00#64), (11, 0x4000400040004000#64), (13,
      0x3800380038003800#64)] []
    [(12, 0x4780458043003E00#64)] [] 0b00000#5 = true := by decide

theorem test_pnmsubS : runsTo 0x68B5764B [(10, 0x400000003F800000#64), (11, 0x4080000040400000#64), (13,
      0x3F0000003F000000#64)] []
    [(12, 0xC0F00000C0200000#64)] [] 0b00000#5 = true := by decide

theorem test_pnmsubH : runsTo 0x6CB5764B [(10, 0x4400420040003C00#64), (11, 0x4000400040004000#64), (13,
      0x3800380038003800#64)] []
    [(12, 0xC780C580C300BE00#64)] [] 0b00000#5 = true := by decide

theorem test_pnmaddS : runsTo 0x68B5764F [(10, 0x400000003F800000#64), (11, 0x4080000040400000#64), (13,
      0x3F0000003F000000#64)] []
    [(12, 0xC1080000C0600000#64)] [] 0b00000#5 = true := by decide

theorem test_pnmaddH : runsTo 0x6CB5764F [(10, 0x4400420040003C00#64), (11, 0x4000400040004000#64), (13,
      0x3800380038003800#64)] []
    [(12, 0xC840C680C480C100#64)] [] 0b00000#5 = true := by decide

theorem test_pack : runsTo 0x08B54633 [] [(10, 0x1111111122222222#64), (11, 0x3333333344444444#64)]
    [] [(12, 0x4444444422222222#64)] 0b00000#5 = true := by decide

theorem test_packu : runsTo 0x48B54633 [] [(10, 0x1111111122222222#64), (11, 0x3333333344444444#64)]
    [] [(12, 0x3333333311111111#64)] 0b00000#5 = true := by decide

theorem test_pshufW_reverse : runsTo 0x41B5161B [] [(10, 0x4400420040003C00#64)]
    [] [(12, 0x3C00400042004400#64)] 0b00000#5 = true := by decide

theorem test_pshufW_rotate : runsTo 0x44E5161B [] [(10, 0x4400420040003C00#64)]
    [] [(12, 0x40003C0044004200#64)] 0b00000#5 = true := by decide

theorem test_pfshufW : runsTo 0x61B5161B [(10, 0x4400420040003C00#64)] []
    [(12, 0x3C00400042004400#64)] [] 0b00000#5 = true := by decide

theorem test_pkbb16 : runsTo 0x0EB51677 [] [(10, 0x000D000C000B000A#64), (11, 0x0004000300020001#64)]
    [] [(12, 0x000C0003000A0001#64)] 0b00000#5 = true := by decide

theorem test_pkbt16 : runsTo 0x1EB51677 [] [(10, 0x000D000C000B000A#64), (11, 0x0004000300020001#64)]
    [] [(12, 0x000C0004000A0002#64)] 0b00000#5 = true := by decide

theorem test_pktb16 : runsTo 0x2EB51677 [] [(10, 0x000D000C000B000A#64), (11, 0x0004000300020001#64)]
    [] [(12, 0x000D0003000B0001#64)] 0b00000#5 = true := by decide

theorem test_pktt16 : runsTo 0x3EB51677 [] [(10, 0x000D000C000B000A#64), (11, 0x0004000300020001#64)]
    [] [(12, 0x000D0004000B0002#64)] 0b00000#5 = true := by decide

theorem test_pkbb32 : runsTo 0x0EB52677 [] [(10, 0x1111111122222222#64), (11, 0x3333333344444444#64)]
    [] [(12, 0x2222222244444444#64)] 0b00000#5 = true := by decide

theorem test_pkbt32 : runsTo 0x1EB52677 [] [(10, 0x1111111122222222#64), (11, 0x3333333344444444#64)]
    [] [(12, 0x2222222233333333#64)] 0b00000#5 = true := by decide

theorem test_pktb32 : runsTo 0x2EB52677 [] [(10, 0x1111111122222222#64), (11, 0x3333333344444444#64)]
    [] [(12, 0x1111111144444444#64)] 0b00000#5 = true := by decide

theorem test_pktt32 : runsTo 0x3EB52677 [] [(10, 0x1111111122222222#64), (11, 0x3333333344444444#64)]
    [] [(12, 0x1111111133333333#64)] 0b00000#5 = true := by decide

theorem test_fleS : runsTo 0xA0B50653 [(10, 0x400000003F800000#64), (11, 0xC00000003F800000#64)] []
    [] [(12, 0x0000000000000001#64)] 0b00000#5 = true := by decide

theorem test_fltS : runsTo 0xA0B51653 [(10, 0x400000003F800000#64), (11, 0xC00000003F800000#64)] []
    [] [(12, 0x0000000000000000#64)] 0b00000#5 = true := by decide

theorem test_fltS_nan : runsTo 0xA0B51653 [(10, 0x000000007FC00000#64), (11, 0x000000003F800000#64)] []
    [] [(12, 0x0000000000000000#64)] 0b10000#5 = true := by decide

theorem test_feqS_zeros : runsTo 0xA0B52653 [(10, 0x0000000080000000#64), (11, 0x0000000000000000#64)] []
    [] [(12, 0x0000000000000001#64)] 0b00000#5 = true := by decide

theorem test_feqS_signalling_nan : runsTo 0xA0B52653 [(10, 0x000000007FA00000#64), (11, 0x000000003F800000#64)] []
    [] [(12, 0x0000000000000000#64)] 0b10000#5 = true := by decide

theorem test_fleD : runsTo 0xA2B50653 [(10, 0x3FF8000000000000#64), (11, 0x4002000000000000#64)] []
    [] [(12, 0x0000000000000001#64)] 0b00000#5 = true := by decide

theorem test_fltD : runsTo 0xA2B51653 [(10, 0x4002000000000000#64), (11, 0x3FF8000000000000#64)] []
    [] [(12, 0x0000000000000000#64)] 0b00000#5 = true := by decide

theorem test_feqD : runsTo 0xA2B52653 [(10, 0x3FF8000000000000#64), (11, 0x3FF8000000000000#64)] []
    [] [(12, 0x0000000000000001#64)] 0b00000#5 = true := by decide

theorem test_fleH : runsTo 0xA4B50653 [(10, 0x4400420040003C00#64), (11, 0x3C003C003C004000#64)] []
    [] [(12, 0x0000000000000001#64)] 0b00000#5 = true := by decide

theorem test_fltH : runsTo 0xA4B51653 [(10, 0x4400420040003C00#64), (11, 0x3C003C003C004000#64)] []
    [] [(12, 0x0000000000000001#64)] 0b00000#5 = true := by decide

theorem test_fltH_false : runsTo 0xA4B51653 [(10, 0x3C003C003C004000#64), (11, 0x4400420040003C00#64)] []
    [] [(12, 0x0000000000000000#64)] 0b00000#5 = true := by decide

theorem test_feqH : runsTo 0xA4B52653 [(10, 0x4400420040003C00#64), (11, 0x3C003C003C004000#64)] []
    [] [(12, 0x0000000000000000#64)] 0b00000#5 = true := by decide

theorem test_fmvXD : runsTo 0xE2050553 [(10, 0x7FF0000000000001#64)] []
    [] [(10, 0x7FF0000000000001#64)] 0b00000#5 = true := by decide

theorem test_fmvDX : runsTo 0xF20686D3 [] [(13, 0x4000400040004000#64)]
    [(13, 0x4000400040004000#64)] [] 0b00000#5 = true := by decide

theorem test_sub : runsTo 0x40A58633 [] [(10, 0x40004000C0004000#64), (11, 0x7800780078007800#64)]
    [] [(12, 0x380037FFB8003800#64)] 0b00000#5 = true := by decide

theorem test_addi : runsTo 0xFF058593 [] [(11, 0x0000000000002010#64)]
    [] [(11, 0x0000000000002000#64)] 0b00000#5 = true := by decide

/-! ### Witnesses

For every statement of Certificates/Slice0/Obligations.lean that has hypotheses, values that meet them all together, one
for each clause, at the ends of the clause's range. A hypothesis `r = .next t` with a property of `t` is written with
`ends`. -/

theorem ends_iff {r : Result} {P : State → Bool} : ends r P = true ↔ ∃ t, r = .next t ∧ P t = true := by
  cases r <;> simp [ends]

/-- Values 1 to 8 in Binary16, a base register, and a flag already set. -/
def sample : State :=
  { start [(10, 0x4400420040003C00#64), (11, 0x4800470046004500#64), (14, 0xFFFFFFFF3F800000#64),
      (15, 0xFFFFFFFFFFFF3C00#64)] [(5, 0x2000#64), (6, 0x2001#64)] with fflags := 0b10000#5 }

/-- The sample state with other parameters. -/
def withParams (f : Params → Params) : State := { sample with params := f sample.params }

/-- Memory is valid only in the 16 bytes from 0x2000 and in the first page of code. -/
def smallMemory : State := withParams fun p => { p with valid := [⟨0x1000, 4⟩, ⟨0x2000, 16⟩], misalignedOk := false }

/-- A next state without an exception. -/
def untrapped (t : State) : Bool := t.trap == none

theorem witness_DecodeEncode :
    Instr.canonical (.paddS 31#5 0#5 31#5 0b111#3) = true ∧ Instr.canonical (.paddS 0#5 0#5 0#5 0b100#3) = true ∧
      Instr.canonical (.psqrtH 0#5 0#5 0b110#3) = true ∧ Instr.canonical (.paddxS 30#5 0#5 2#5 .rtz2) = true := by decide

theorem witness_EncodeDecode : decode 0x68B56643#32 = .instr (.pmaddS 12#5 10#5 11#5 13#5 0b110#3) := by decide

theorem witness_StepRunsDecoded :
    let s := sample.withFetchWord 32 0x04B57653;
    s.trap = none ∧ s.params.haltPc ≠ some s.pc ∧ s.pc.extractLsb' 0 2 = 0#2 ∧ s.accessValid s.pc 4 = true ∧
      s.fetchUnstored = true ∧ decodeBytes s.fetchBytes = .instr (.paddH 12#5 10#5 11#5 0b111#3) := by decide

/-- The sample state with another `pc`. -/
def atPc (pc : Word) : State := { sample with pc := pc }

/-- The sample state with one valid range. -/
def validOnly (base size : Nat) : State := withParams fun p => { p with valid := [⟨base, size⟩] }

/-- The first clause at `pc` 0x1001 and 0x1003; the second with byte 0 and with only byte 3 invalid. -/
theorem witness_FetchTraps :
    ((atPc 0x1001#64).trap = none ∧ (atPc 0x1001#64).params.haltPc ≠ some (atPc 0x1001#64).pc ∧
      (atPc 0x1001#64).pc.extractLsb' 0 2 ≠ 0#2 ∧ (atPc 0x1003#64).pc.extractLsb' 0 2 ≠ 0#2) ∧
    ((validOnly 0x1001 3).trap = none ∧ (validOnly 0x1001 3).params.haltPc ≠ some (validOnly 0x1001 3).pc ∧
      (validOnly 0x1001 3).pc.extractLsb' 0 2 = 0#2 ∧
      memValid (validOnly 0x1001 3).params (byteAddr (validOnly 0x1001 3).pc 0) = false ∧
      memValid (validOnly 0x1000 3).params (byteAddr (validOnly 0x1000 3).pc 2) = true ∧
      memValid (validOnly 0x1000 3).params (byteAddr (validOnly 0x1000 3).pc 3) = false) := by decide

theorem witness_StepOnOtherWords :
    (let s := sample.withFetchWord 32 0x06B57653;
      s.trap = none ∧ s.params.haltPc ≠ some s.pc ∧ s.pc.extractLsb' 0 2 = 0#2 ∧ s.accessValid s.pc 4 = true ∧
        s.fetchUnstored = true ∧ decode s.fetchWord = .reserved .typeBits) ∧
    (let s := sample.withFetchWord 32 0x00B50533;
      s.trap = none ∧ s.params.haltPc ≠ some s.pc ∧ s.pc.extractLsb' 0 2 = 0#2 ∧ s.accessValid s.pc 4 = true ∧
        s.fetchUnstored = true ∧ decode s.fetchWord = .notOfThisSpec) := by decide

/-- The clauses on stored bytes: the first byte of the word stored to, the last, and the bytes on either side. -/
theorem witness_StepOnOtherWords_stored :
    (∀ k ∈ [0, 3], let s := sample.memWrite (byteAddr 0x1000#64 k) 0#64 1;
      s.trap = none ∧ s.params.haltPc ≠ some s.pc ∧ s.pc.extractLsb' 0 2 = 0#2 ∧ s.accessValid s.pc 4 = true ∧
        (byteAddr s.pc k).toNat ∈ s.stored) ∧
    (let s := (sample.memWrite 0x0FFF#64 0#64 1).memWrite 0x1004#64 0#64 1;
      s.pc.extractLsb' 0 2 = 0#2 ∧ s.accessValid s.pc 4 = true ∧ ∀ k, k < 4 → (byteAddr s.pc k).toNat ∉ s.stored) := by
  decide

theorem witness_ReservedWords :
    (let F := fieldsOf 0x00058507#32;
      F.op = 0b0000111#7 ∧ F.f3 = 0b000#3) ∧
    (let F := fieldsOf 0x00A5F027#32;
      F.op = 0b0100111#7 ∧ F.f3 = 0b111#3) ∧
    (let F := fieldsOf 0x06B57653#32;
      F.op = 0b1010011#7 ∧ F.funct5 = 0b00000#5 ∧ F.fmt = 0b11#2) ∧
    (let F := fieldsOf 0xF6051653#32;
      F.op = 0b1010011#7 ∧ F.funct5 = 0b11110#5 ∧ F.fmt = 0b11#2) ∧
    (let F := fieldsOf 0xE6050553#32;
      F.op = 0b1010011#7 ∧ F.funct5 = 0b11100#5 ∧ F.fmt = 0b11#2) ∧
    (let F := fieldsOf 0x6EB5764F#32;
      F.op = 0b1001111#7 ∧ F.fmt = 0b11#2) := by decide

/-- The clauses on words of OP-FP: the smallest code each takes in, and the greatest. -/
theorem witness_UnassignedWords :
    ([0x20003053#32, 0x24007053#32, 0x28002053#32, 0x28007053#32, 0x40000053#32, 0x45F00053#32, 0x58100053#32,
        0x5DF00053#32, 0xF0001053#32, 0xF5F01053#32].all fun w => (fieldsOf w).op == 0b1010011#7) = true ∧
    ((fieldsOf 0x20003053#32).funct5 = 0b00100#5 ∧ (fieldsOf 0x20003053#32).f3 = 0b011#3) ∧
    ((fieldsOf 0x24007053#32).funct5 = 0b00100#5 ∧ (fieldsOf 0x24007053#32).fmt = 0b10#2 ∧
      (fieldsOf 0x24007053#32).f3.getLsbD 2 = true) ∧
    ([0x28002053#32, 0x28007053#32].all fun w =>
      (fieldsOf w).funct5 == 0b00101#5 && (fieldsOf w).f3 != 0b000#3 && (fieldsOf w).f3 != 0b001#3) = true ∧
    ([0x40000053#32, 0x45F00053#32].all fun w =>
      (fieldsOf w).funct5 == 0b01000#5 && !([(0b00#2, 0b00001#5), (0b00#2, 0b00010#5), (0b00#2, 0b00110#5),
        (0b00#2, 0b01010#5), (0b00#2, 0b01110#5), (0b01#2, 0b00000#5), (0b01#2, 0b00010#5), (0b01#2, 0b00110#5),
        (0b10#2, 0b00000#5), (0b10#2, 0b00001#5), (0b10#2, 0b01000#5), (0b10#2, 0b01001#5)].contains
          ((fieldsOf w).fmt, (fieldsOf w).rs2))) = true ∧
    ([0x58100053#32, 0x5DF00053#32].all fun w =>
      (fieldsOf w).funct5 == 0b01011#5 && (fieldsOf w).rs2 != 0b00000#5) = true ∧
    ([0xF0001053#32, 0xF5F01053#32].all fun w => (fieldsOf w).funct5 == 0b11110#5 && (fieldsOf w).f3 == 0b001#3 &&
      (fieldsOf w).rs2 != 0b00001#5 && (fieldsOf w).rs2 != 0b00010#5) = true ∧
    ([0xF0100053#32, 0xF5F00053#32].all fun w => (fieldsOf w).op == 0b1010011#7 && (fieldsOf w).funct5 == 0b11110#5 &&
      (fieldsOf w).f3 == 0b000#3 && (fieldsOf w).rs2 != 0b00000#5) = true ∧
    ([0xF0002053#32, 0xF5F07053#32].all fun w => (fieldsOf w).op == 0b1010011#7 && (fieldsOf w).funct5 == 0b11110#5 &&
      (fieldsOf w).f3 != 0b000#3 && (fieldsOf w).f3 != 0b001#3) = true := by decide

/-- The clauses on the two other kinds of word. -/
theorem witness_UnassignedWords_opcodes :
    ([0x00001077#32, 0xFE002077#32].all fun w => (fieldsOf w).op == 0b1110111#7 &&
      ((fieldsOf w).f3 == 0b001#3 || (fieldsOf w).f3 == 0b010#3) &&
      !([0b0000111#7, 0b0001111#7, 0b0010111#7, 0b0011111#7].contains (fieldsOf w).f7)) = true ∧
    ([0x00000000#32, 0xFFFFFFFF#32].all fun w => !([0b0000111#7, 0b0100111#7, 0b1010011#7, 0b1000011#7, 0b1000111#7,
      0b1001011#7, 0b1001111#7, 0b0110011#7, 0b0011011#7, 0b1110111#7, 0b0010011#7, 0b1100111#7].contains
        (fieldsOf w).op)) = true := by decide

/-- The clauses on words outside the spec that have an opcode of OP-FP: FMIN.D and FMAX.D, FCLASS.S, FCLASS.D, FMV.X.W,
FMV.W.X, FMV.H.X, a compare code next to the listed ones and the last, and FCVT.W.S. -/
theorem witness_UnassignedWords_outside_opfp :
    ([0x2AB50653#32, 0x2AB51653#32, 0xE0051553#32, 0xE2051553#32, 0xE0050553#32, 0xF0050553#32, 0xF4050553#32,
        0xA0B53653#32, 0xA4B57653#32, 0xC0050553#32].all fun w => (fieldsOf w).op == 0b1010011#7) = true ∧
    ([0x2AB50653#32, 0x2AB51653#32].all fun w => (fieldsOf w).funct5 == 0b00101#5 && (fieldsOf w).fmt == 0b01#2 &&
      ((fieldsOf w).f3 == 0b000#3 || (fieldsOf w).f3 == 0b001#3)) = true ∧
    ([0xA0B53653#32, 0xA4B57653#32].all fun w => (fieldsOf w).funct5 == 0b10100#5 && (fieldsOf w).fmt != 0b11#2 &&
      !([0b000#3, 0b001#3, 0b010#3].contains (fieldsOf w).f3)) = true ∧
    ([0xE0051553#32, 0xE2051553#32, 0xE0050553#32].all fun w => (fieldsOf w).funct5 == 0b11100#5 &&
      (fieldsOf w).fmt != 0b11#2 &&
      ((fieldsOf w).fmt, (fieldsOf w).rs2, (fieldsOf w).f3) != (0b01#2, 0b00000#5, 0b000#3)) = true ∧
    ([0xF0050553#32, 0xF4050553#32].all fun w => (fieldsOf w).funct5 == 0b11110#5 && (fieldsOf w).f3 == 0b000#3 &&
      (fieldsOf w).rs2 == 0b00000#5 && ((fieldsOf w).fmt == 0b00#2 || (fieldsOf w).fmt == 0b10#2)) = true ∧
    (!([0b00000#5, 0b00001#5, 0b00010#5, 0b00011#5, 0b00100#5, 0b00101#5, 0b01000#5, 0b01011#5, 0b10100#5, 0b11100#5,
      0b11110#5].contains (fieldsOf 0xC0050553#32).funct5)) = true := by decide

/-- The clauses on the other opcodes: FMADD.D, funct3 000 and 111 of 1110111, ADD and SRA, ADDIW and SLLIW, SLTI and
funct3 111 of JALR's opcode. -/
theorem witness_UnassignedWords_outside :
    ((fieldsOf 0x6AB57643#32).op = 0b1000011#7 ∧ (fieldsOf 0x6AB57643#32).fmt = 0b01#2) ∧
    ([0x00000077#32, 0x00007077#32].all fun w => (fieldsOf w).op == 0b1110111#7 && (fieldsOf w).f3 != 0b001#3 &&
      (fieldsOf w).f3 != 0b010#3) = true ∧
    ([0x00B50533#32, 0x40B55533#32].all fun w => (fieldsOf w).op == 0b0110011#7 &&
      !([(0b0000100#7, 0b100#3), (0b0100100#7, 0b100#3), (0b0100000#7, 0b000#3)].contains
        ((fieldsOf w).f7, (fieldsOf w).f3))) = true ∧
    ([0x0000051B#32, 0x0000151B#32].all fun w => (fieldsOf w).op == 0b0011011#7 &&
      !([(0b0100#4, 0b001#3), (0b0110#4, 0b001#3)].contains
        ((fieldsOf w).f7.extractLsb' 3 4, (fieldsOf w).f3))) = true ∧
    ([0x00052513#32, 0x00007067#32].all fun w => ((fieldsOf w).op == 0b0010011#7 || (fieldsOf w).op == 0b1100111#7) &&
      (fieldsOf w).f3 != 0b000#3) = true := by decide

theorem witness_EndOfRun :
    (sample.raise (.illegalInstruction 0#32)).trap = some ⟨.illegalInstruction 0#32, 0x1000#64⟩ ∧
    (let s := withParams fun p => { p with haltPc := some 0x1000#64 };
      s.trap = none ∧ s.params.haltPc = some s.pc) := by decide

theorem witness_LoadedWordRuns :
    sample.pc.extractLsb' 0 2 = 0#2 ∧ sample.accessValid sample.pc 4 = true ∧
      smallMemory.pc.extractLsb' 0 2 = 0#2 ∧ smallMemory.accessValid smallMemory.pc 4 = true := by decide

theorem witness_StepKeepsInv :
    (sample.withFetchWord 32 0x00A2B027).Inv ∧
      ends (step (sample.withFetchWord 32 0x00A2B027)) (fun t => untrapped t && t.stored.length == 8) = true :=
  ⟨⟨by decide, by decide, by decide, by decide, by decide⟩, by decide⟩

theorem witness_ControlStateUnderSteps :
    sample.fflags.getLsbD 4 = true ∧
      ends (step (sample.withFetchWord 32 0x04B57653)) (fun t => untrapped t && t.fflags == 0b10000#5) = true := by decide

theorem witness_TrapsArePrecise :
    sample.trap = none ∧ ends (exec (.flx 13#5 5#5 0#12) sample)
      (fun t => t.trap == some ⟨.illegalInstruction 0x0002C687#32, 0x1000#64⟩) = true := by decide

/-- The clause on a pair store, with the low half alone valid, the high half alone,
      and neither: what it leaves in memory
is a free value, so no evaluation shows it. -/
theorem witness_TrapsArePrecise_fsx :
    ∀ v ∈ [(0x2000, 8), (0x2008, 8), (0x1000, 4)],
      (validOnly v.1 v.2).trap = none ∧ ∃ t, exec (.fsx 5#5 0#12 10#5) (validOnly v.1 v.2) = .next t ∧
        t.trap = some ⟨.storeAccessFault ((validOnly v.1 v.2).ea 5#5 0#12), (validOnly v.1 v.2).pc⟩ := by
  intro v hv
  have h : exec (.fsx 5#5 0#12 10#5) (validOnly v.1 v.2) = pairStoreFault ((validOnly v.1 v.2).ea 5#5 0#12)
      ((validOnly v.1 v.2).getF 10#5) ((validOnly v.1 v.2).getF (highReg 10#5)) (validOnly v.1 v.2) := by
    rw [exec_fsx]
    refine (requiring_true rfl).trans (checkedStore_invalid (.inr ?_) ?_) <;> (revert v; decide)
  obtain ⟨t, hx, ht, _⟩ := pairStoreFault_raises h
  exact ⟨rfl, t, hx, ht⟩

/-- The half that is valid is the one that can have been stored, in either order (R48). -/
theorem test_storeValidHalf :
    ((validOnly 0x2000 8).storeValidHalf 0x2000#64 1#64 2#64).stored = [0x2007, 0x2006, 0x2005, 0x2004, 0x2003,
      0x2002, 0x2001, 0x2000] ∧
      ((validOnly 0x2008 8).storeValidHalf 0x2000#64 1#64 2#64).memRead 0x2008#64 8 = 2#64 ∧
      ((validOnly 0x2001 14).storeValidHalf 0x2000#64 1#64 2#64).stored = [] := by decide

theorem witness_PcAdvances :
    sample.trap = none ∧ ends (exec (.psgnjS 12#5 10#5 11#5) sample) untrapped = true ∧
      (∀ rd rs1 imm, Instr.psgnjS 12#5 10#5 11#5 ≠ .jalr rd rs1 imm) :=
  ⟨by decide, by decide, fun _ _ _ h => nomatch h⟩

theorem witness_OnlyStoresWriteMemory :
    ends (exec (.flh 12#5 5#5 0#12) sample) untrapped = true ∧
      (∀ rs1 imm rs2, Instr.flh 12#5 5#5 0#12 ≠ .fsh rs1 imm rs2 ∧ Instr.flh 12#5 5#5 0#12 ≠ .fsw rs1 imm rs2 ∧
        Instr.flh 12#5 5#5 0#12 ≠ .fsd rs1 imm rs2 ∧ Instr.flh 12#5 5#5 0#12 ≠ .fsx rs1 imm rs2) :=
  ⟨by decide, fun _ _ _ => ⟨nofun, nofun, nofun, nofun⟩⟩

theorem witness_MemoryAlgebra :
    sample.mem.wf = true ∧ (sample.memWrite 0xFFFFFFFFFFFFFFFC#64 0x1122334455667788#64 8).mem.wf = true ∧
      (∀ m ∈ [[(0, 1#8), (2 ^ 64 - 1, 2#8)]], Memory.wf m = true ∧ ∀ a ∈ [0, 1, 2 ^ 64 - 1],
      Memory.read m a = Memory.read m a) := by decide

/-- Each width with MISALIGNED_OK and an odd address, and without it at the last aligned address of valid memory. -/
theorem witness_ScalarLoads :
    (∀ n ∈ [2, 4, 8], sample.params.misalignedOk = true ∧ sample.accessValid (sample.ea 6#5 0#12) n = true) ∧
    (∀ p ∈ [(2, 14#12), (4, 12#12), (8, 8#12)],
      (smallMemory.params.misalignedOk = true ∨ (smallMemory.ea 5#5 p.2).toNat % p.1 = 0) ∧
        smallMemory.accessValid (smallMemory.ea 5#5 p.2) p.1 = true) := by decide

theorem witness_PairLoad :
    smallMemory.params.hasFlx = true ∧ (30#5).getLsbD 0 = false ∧ (smallMemory.ea 5#5 0#12).extractLsb' 0 3 = 0#3 ∧
      smallMemory.accessValid (smallMemory.ea 5#5 0#12) 16 = true := by decide

theorem witness_ScalarStores :
    (∀ n ∈ [2, 4, 8], sample.params.misalignedOk = true ∧ sample.accessValid (sample.ea 6#5 0#12) n = true ∧
      sample.avoidsText (sample.ea 6#5 0#12) n = true) ∧
    (∀ p ∈ [(2, 14#12), (4, 12#12), (8, 8#12)],
      (smallMemory.params.misalignedOk = true ∨ (smallMemory.ea 5#5 p.2).toNat % p.1 = 0) ∧
        smallMemory.accessValid (smallMemory.ea 5#5 p.2) p.1 = true ∧
        smallMemory.avoidsText (smallMemory.ea 5#5 p.2) p.1 = true) := by decide

theorem witness_PairStore :
    smallMemory.params.hasFsx = true ∧ (0#5).getLsbD 0 = false ∧ (smallMemory.ea 5#5 0#12).extractLsb' 0 3 = 0#3 ∧
      smallMemory.accessValid (smallMemory.ea 5#5 0#12) 16 = true ∧
      smallMemory.avoidsText (smallMemory.ea 5#5 0#12) 16 = true := by decide

/-- The misaligned clauses at 1 and 7 above a multiple of 8; the completing clauses at a multiple of 8 that is none of
16. -/
theorem witness_PairAlignment :
    (10#5).getLsbD 0 = false ∧ sample.params.hasFlx = true ∧ sample.params.hasFsx = true ∧
      (sample.ea 5#5 1#12).extractLsb' 0 3 ≠ 0#3 ∧ (sample.ea 5#5 7#12).extractLsb' 0 3 ≠ 0#3 ∧
      (sample.ea 5#5 8#12).extractLsb' 0 3 = 0#3 ∧ (sample.ea 5#5 8#12).toNat % 16 ≠ 0 ∧
      sample.accessValid (sample.ea 5#5 8#12) 16 = true ∧ sample.avoidsText (sample.ea 5#5 8#12) 16 = true := by decide

theorem witness_NaturalAlignment :
    smallMemory.params.misalignedOk = false ∧ (smallMemory.ea 5#5 1#12).toNat % 2 ≠ 0 ∧
      (smallMemory.ea 5#5 2#12).toNat % 4 ≠ 0 ∧ (smallMemory.ea 5#5 3#12).toNat % 4 ≠ 0 ∧
      (smallMemory.ea 5#5 4#12).toNat % 8 ≠ 0 ∧ (smallMemory.ea 5#5 7#12).toNat % 8 ≠ 0 := by decide

/-- For each width, the access whose last byte alone is invalid, and one whose first byte is,
      aligned and misaligned; for
the pairs, each half alone valid. -/
theorem witness_AccessFaults :
    (∀ n ∈ [2, 4, 8, 16], let s := validOnly 0x2000 (n - 1);
      s.params.misalignedOk = true ∧ memValid s.params (byteAddr (s.ea 5#5 0#12) (n - 1)) = false ∧
        memValid s.params (byteAddr (s.ea 5#5 0#12) (n - 2)) = true ∧
        memValid s.params (byteAddr (s.ea 6#5 0#12) (n - 1)) = false) ∧
    (∀ i ∈ [0#12, 16#12], smallMemory.params.misalignedOk = false ∧ (smallMemory.ea 5#5 i).toNat % 2 = 0 ∧
      (smallMemory.ea 5#5 i).toNat % 4 = 0 ∧ (smallMemory.ea 5#5 i).toNat % 8 = 0) ∧
    memValid smallMemory.params (byteAddr (smallMemory.ea 5#5 16#12) 0) = false ∧
    (∀ p ∈ [(0x2000, 8), (0x2000, 15), (0x2008, 0), (0x2001, 0)],
      let s := validOnly p.1 (0x2010 - p.1 - (16 - p.2) % 16);
      (s.ea 5#5 0#12).extractLsb' 0 3 = 0#3 ∧ memValid s.params (byteAddr (s.ea 5#5 0#12) p.2) = false ∧
        s.params.hasFlx = true ∧ s.params.hasFsx = true) ∧ (10#5).getLsbD 0 = false := by decide

/-- For each width, the first and the last byte in the text, at an aligned address without MISALIGNED_OK, and at an odd
one with it, only the bytes of the store being valid. -/
theorem witness_StoresToTextAreRefused :
    (∀ n ∈ [2, 4, 8, 16], ∀ k ∈ [0, n - 1],
      let s := withParams fun p => { p with text := [⟨0x2000 + k, 1⟩], valid := [⟨0x2000, n⟩], misalignedOk := false };
      (s.ea 5#5 0#12).toNat % n = 0 ∧ (s.ea 5#5 0#12).extractLsb' 0 3 = 0#3 ∧ s.accessValid (s.ea 5#5 0#12) n = true ∧
        inText s.params (byteAddr (s.ea 5#5 0#12) k) = true ∧ s.params.hasFsx = true) ∧
    (∀ n ∈ [2, 4, 8], ∀ k ∈ [0, n - 1],
      let s := withParams fun p => { p with text := [⟨0x2001 + k, 1⟩], valid := [⟨0x2001, n⟩] };
      s.params.misalignedOk = true ∧ s.accessValid (s.ea 6#5 0#12) n = true ∧
        inText s.params (byteAddr (s.ea 6#5 0#12) k) = true) ∧
    (10#5).getLsbD 0 = false := by decide

theorem witness_StoreLoadRoundTrip :
    sample.trap = none ∧ ends (exec (.fsd 6#5 0#12 14#5) sample) (fun t => t.trap == sample.trap) = true := by decide

theorem witness_PairAccessIsTwoAccesses :
    sample.trap = none ∧ (8#12).signExtend 64 = (0#12).signExtend 64 + 8#64 ∧
      (0#12).signExtend 64 = (0xFF8#12).signExtend 64 + 8#64 ∧
      ends (exec (.flx 10#5 5#5 0#12) sample) untrapped = true ∧
      ends (exec (.fsx 5#5 0#12 10#5) sample) untrapped = true := by decide

theorem witness_RoundingModes :
    ∀ r ∈ [0b000#3, 0b001#3, 0b010#3, 0b011#3, 0b100#3, 0b101#3, 0b110#3, 0b111#3],
      ({ sample with frm := r } : State).frm = r := by decide

theorem witness_IllegalRoundingModes :
    Instr.rmField (.paddS 0#5 0#5 0#5 0b111#3) = some (0b111#3, true) ∧
      (∀ r ∈ [0b101#3, 0b110#3, 0b111#3], ({ sample with frm := r } : State).frm = r) ∧
      Instr.rmField (.psqrtH 0#5 0#5 0b101#3) = some (0b101#3, false) ∧
      Instr.rmField (.pmaddS 0#5 0#5 0#5 0#5 0b110#3) = some (0b110#3, false) := by decide

theorem witness_OddPairIsIllegal :
    1#5 ∈ Instr.pairOperands (.flx 1#5 0#5 0#12) ∧ (1#5).getLsbD 0 = true ∧
      31#5 ∈ Instr.pairOperands (.paddxS 0#5 2#5 31#5 .rtz2) ∧ (31#5).getLsbD 0 = true := by decide

theorem witness_AbsentFeatureIsIllegal :
    (withParams fun p => { p with hasFlx := false }).params.hasFlx = false ∧
      (withParams fun p => { p with hasFsx := false }).params.hasFsx = false ∧
      (withParams fun p => { p with hasX128 := false }).params.hasX128 = false ∧
      (withParams fun p => { p with hasX128H := false }).params.hasX128H = false ∧
      (withParams fun p => { p with hasPdivx := false }).params.hasPdivx = false ∧
      (withParams fun p => { p with hasFpk := false }).params.hasFpk = false ∧
      (withParams fun p => { p with hasHelper := false }).params.hasHelper = false ∧
      (withParams fun p => { p with hasMisc := false }).params.hasMisc = false := by decide

/-- A static mode and DYN with a legal `frm`: the hypothesis of PackedArithmetic, ScalarConversions and
LaneConversions, and the first of PackedDivide, ScalarDivide, NaNPreservation, PackedSquareRoot, ScalarSquareRoot,
PackedMultiplyAdd and ScalarMultiplyAdd. -/
theorem witness_PackedArithmetic :
    sample.rmMeaning 0b100#3 = .narrow .rmm ∧ ({ sample with frm := 0b100#3 } : State).rmMeaning 0b111#3 = .narrow .rmm := by
  decide

theorem witness_ScalarConversions : sample.rmMeaning 0b001#3 = .narrow .rtz := by decide

theorem witness_LaneConversions : sample.rmMeaning 0b011#3 = .narrow .rup := by decide

/-- The sample state with the scalar units. -/
def scalarUnits (visible : Bool) : State :=
  withParams fun p =>
    { p with
      pdivImpl := .scalarOrEmulate
      psqrtImpl := .scalarOrEmulate
      emulationVisible := visible
      hasPmadd := false }

theorem witness_PackedDivide :
    sample.rmMeaning 0b111#3 = .narrow .rne ∧ sample.params.pdivImpl = .simd ∧
      (scalarUnits false).rmMeaning 0b111#3 = .narrow .rne ∧ (scalarUnits false).params.emulationVisible = false ∧
      (highNaN .S ((scalarUnits false).getF 10#5) && highNaN .S ((scalarUnits false).getF 14#5)) = false ∧
      (highNaN .H ((scalarUnits false).getF 10#5) && highNaN .H ((scalarUnits false).getF 15#5)) = false := by decide

theorem witness_ScalarDivide :
    (scalarUnits true).rmMeaning 0b111#3 = .narrow .rne ∧ (scalarUnits true).params.pdivImpl = .scalarOrEmulate ∧
      (scalarUnits true).params.emulationVisible = true ∧
      isNaN .S (lane 32 1 ((scalarUnits true).getF 14#5)) = true ∧
      isNaN .S (lane 32 1 ((scalarUnits true).getF 10#5)) = false ∧
      (∀ k ∈ [1, 2, 3], isNaN .H (lane 16 k ((scalarUnits true).getF 15#5)) = true) ∧
      isNaN .H (lane 16 3 ((scalarUnits true).getF 10#5)) = false := by decide

theorem witness_PairArithmetic :
    sample.params.hasX128 = true ∧ sample.params.hasX128H = true ∧ sample.params.hasPdivx = true ∧
      (30#5).getLsbD 0 = false ∧ (10#5).getLsbD 0 = false ∧ (0#5).getLsbD 0 = false := by decide

theorem witness_NaNPreservation :
    sample.rmMeaning 0b111#3 = .narrow .rne ∧ isNaN .S (lane 32 1 (sample.getF 14#5)) = true ∧
      isNaN .H (lane 16 3 (sample.getF 15#5)) = true ∧ isNaN .H (lane 16 0 (sample.getF 15#5)) = false ∧
      isNaN .D 0x7FF0000000000001#64 = true ∧ isNaN .B 0xFFFF#16 = true := by decide

/-- The clause on exact results: 3.0 and 1.5, and the greatest number with the least normal one's double. -/
theorem witness_NaNPreservation_exact :
    ([recommendedNumerics.add .S .rne 0x40400000#32 0x3FC00000#32,
      recommendedNumerics.sub .S .rne 0x40400000#32 0x3FC00000#32,
      recommendedNumerics.mul .S .rne 0x40400000#32 0x3FC00000#32,
      recommendedNumerics.div .S .rne 0x40400000#32 0x3FC00000#32,
      recommendedNumerics.mul .S .rdn 0x7F7FFFFF#32 0x3F800000#32,
      recommendedNumerics.div .S .rup 0x00800000#32 0x3F800000#32].all
        fun f => !f.2.getLsbD 0 && !isNaN .S f.1 && !isSubnormal .S f.1) = true ∧
    ([0x40400000#32, 0x3FC00000#32, 0x7F7FFFFF#32,
      0x00800000#32].all fun a => !isNaN .S a && !isSubnormal .S a) = true := by
  decide

theorem witness_RecommendedNaNResults :
    isNaN .S 0x7F800001#32 = true ∧ isNaN .H 0xFFFF#16 = true ∧ isNaN .B 0x7FC0#16 = true ∧
      isNaN .D 0x7FF8000000000000#64 = true := by decide

/-- The multiply-add clause: -inf times +0 beside a NaN, and two ones, which are neither. -/
theorem witness_RecommendedNaNResults_fma :
    0xFF800000#32 = infinity .S true ∧ 0x00000000#32 = zeroOf .S false ∧ 0x7F800000#32 = infinity .S false ∧
      0x80000000#32 = zeroOf .S true ∧ 0x3F800000#32 ≠ infinity .S true ∧ 0x3F800000#32 ≠ infinity .S false ∧
      0x3F800000#32 ≠ zeroOf .S true ∧ 0x3F800000#32 ≠ zeroOf .S false := by decide

/-- The clauses on multiply-add, square root and conversion: 1.5 * 2.0 + 3.0, the root of 2.25, 1.5 in Binary16. -/
theorem witness_NaNPreservation_exact_others :
    ([recommendedNumerics.fma .S .rne 0x3FC00000#32 0x40000000#32 0x40400000#32 false false,
      recommendedNumerics.sqrt .S .rne 0x40100000#32, recommendedNumerics.cvt .S .H .rne 0x3E00#16].all
        fun f => !f.2.getLsbD 0 && !isNaN .S f.1 && !isSubnormal .S f.1) = true ∧
    ([recommendedNumerics.cvt .H .S .rne 0x3FC00000#32].all
        fun f => !f.2.getLsbD 0 && !isNaN .H f.1 && !isSubnormal .H f.1) = true ∧
    ([0x3FC00000#32, 0x40000000#32, 0x40400000#32, 0x40100000#32].all
        fun a => !isNaN .S a && !isSubnormal .S a && !a.msb) = true := by decide

/-- Numbers of either sign in order, equal zeros, and NaNs of both kinds. -/
theorem witness_RecommendedComparisons :
    ([0xFC00#16, 0xFBFF#16, 0x8000#16, 0x0000#16, 0x7C00#16].all fun a => !isNaN .H a) = true ∧
      isNaN .H 0x7C01#16 = true ∧ isNaN .H 0xFFFF#16 = true ∧ (0xFBFF#16).msb = true ∧ (0x8000#16).msb = true ∧
      (0x0000#16).msb = false ∧ (0x7C00#16).msb = false := by decide

/-- The hypotheses of transitivity, from -infinity to +infinity. -/
theorem witness_RecommendedComparisons_order :
    ([(0xFC00#16, 0xFBFF#16), (0xFBFF#16, 0x8000#16), (0x0000#16,
      0x7C00#16)].all fun p => (ieeeLt .H p.1 p.2).1) = true ∧
      (ieeeLe .H 0x8000#16 0x0000#16).1 = true := by decide

theorem witness_RecommendedMinMax :
    isNaN .S 0x7F800000#32 = false ∧ isNaN .S 0x80000000#32 = false ∧ isNaN .S 0x7FA00000#32 = true ∧
      isNaN .S 0xFFFFFFFF#32 = true ∧
      ((numericsOf sample.params).lt .S 0xFF800000#32 0x80000000#32).1 = true := by decide

theorem witness_Packs : sample.params.hasFpk = true := by decide

theorem witness_PairConversions :
    sample.params.hasX128 = true ∧ (30#5).getLsbD 0 = false ∧ (10#5).getLsbD 0 = false := by decide

theorem witness_ConversionSequences :
    sample.rmMeaning 0b000#3 = .narrow .rne ∧ sample.rmMeaning 0b011#3 = .narrow .rup ∧
      RMode.rne = XRm.rounding .rne2 ∧ sample.trap = none ∧ (10#5 : FReg) ≠ 12#5 ∧
      10#5 ≠ highReg 12#5 ∧ highReg 10#5 ≠ 12#5 ∧ sample.params.hasFpk = true ∧
      ends (exec (.pcvtxSH 12#5 10#5 .rne2) sample) untrapped = true ∧
      ends (exec (.pcvtxSBf16 12#5 10#5 .rne2) sample) untrapped = true ∧
      ends (exec (.pcvtxHS 12#5 10#5 .rne2) sample) untrapped = true := by decide

theorem witness_PackedSquareRoot :
    sample.rmMeaning 0b010#3 = .narrow .rdn ∧ sample.params.psqrtImpl = .simd ∧
      (scalarUnits false).rmMeaning 0b010#3 = .narrow .rdn ∧ (scalarUnits false).params.emulationVisible = false ∧
      highNaN .S ((scalarUnits false).getF 10#5) = false ∧ highNaN .H ((scalarUnits false).getF 10#5) = false := by decide

theorem witness_ScalarSquareRoot :
    (scalarUnits true).rmMeaning 0b000#3 = .narrow .rne ∧ (scalarUnits true).params.psqrtImpl = .scalarOrEmulate ∧
      isNaN .S (lane 32 1 ((scalarUnits true).getF 14#5)) = true ∧
      isNaN .S (lane 32 1 ((scalarUnits true).getF 10#5)) = false ∧
      (∀ k ∈ [1, 2, 3], isNaN .H (lane 16 k ((scalarUnits true).getF 15#5)) = true) ∧
      isNaN .H (lane 16 1 ((scalarUnits true).getF 10#5)) = false ∧
      (scalarUnits true).params.emulationVisible = true ∧ (scalarUnits true).params.hasX128 = true ∧
      (12#5).getLsbD 0 = false ∧ (10#5).getLsbD 0 = false := by decide

theorem witness_PairSquareRoot :
    sample.params.hasX128 = true ∧ (12#5).getLsbD 0 = false ∧ (10#5).getLsbD 0 = false ∧ sample.params.psqrtImpl = .simd ∧
      (scalarUnits false).params.hasX128 = true ∧ (scalarUnits false).params.psqrtImpl ≠ .simd ∧
      (scalarUnits false).params.emulationVisible = false := by decide

theorem witness_HelperApproximations : sample.params.hasHelper = true := by decide

theorem witness_PackedMultiplyAdd :
    sample.rmMeaning 0b111#3 = .narrow .rne ∧ sample.params.hasPmadd = true := by decide

theorem witness_ScalarMultiplyAdd :
    (scalarUnits false).rmMeaning 0b111#3 = .narrow .rne ∧ (scalarUnits false).params.hasPmadd = false := by decide

theorem witness_MiscInstructions : sample.params.hasMisc = true := by decide

/-- The first clause at a target that is a multiple of 4, the second at one that is not. -/
theorem witness_Jalr :
    ((sample.getX 6#5 + (0#12).signExtend 64) &&& ~~~1#64).getLsbD 1 = false ∧
      ((sample.getX 6#5 + (1#12).signExtend 64) &&& ~~~1#64).getLsbD 1 = true := by decide

/-! The parameters of R5 that select another reading of a word (97_test_vectors_cvt_misc.md sections 2.8 and 2.9,
96_test_vectors_mem_arith.md section 2.2). -/

theorem test_pmaddS_without_pmadd :
    ends (runs 0x68B57643 { start [(10, 0x400000003F800000#64), (11, 0x4080000040400000#64), (13,
      0x3F0000003F000000#64)]
        [] with params := (scalarUnits false).params })
      (fun t => t.getF 12 == 0xFFFFFFFF40600000#64 && t.fflags == 0#5) = true := by decide

theorem test_psqrtS_scalar_unit :
    ends (runs 0x58057653 { start [(10, 0xFFFFFFFF40800000#64)] [] with params := (scalarUnits true).params })
      (fun t => t.getF 12 == 0xFFFFFFFF40000000#64) = true := by decide

theorem test_pdivH_emulation_trap :
    trapsWith 0x1CB57653 { start [(10, 0x4400420040003C00#64), (11, 0x4000400040004000#64)] [] with
      params := (scalarUnits true).params } (.emulationTrap 0x1CB57653#32) = true := by decide

theorem test_paddS_dynamic_rounding_from_frm :
    ends (runs 0x00B57653 { start [(10, 0x7F7FFFFF3F800000#64), (11, 0x7F7FFFFF33800000#64)] [] with frm := 0b001#3 })
      (fun t => t.getF 12 == 0x7F7FFFFF3F800000#64 && t.fflags == 0b00101#5) = true := by decide

theorem test_paddS_illegal_frm :
    trapsWith 0x00B57653 { start [] [] with frm := 0b101#3 } (.illegalInstruction 0x00B57653#32) = true := by decide

/-! A machine whose arithmetic is not the recommended one (R12, R170, R180): what the rules fix, it computes. -/

/-- The start state with the operands and the implementation's own `Numerics`. -/
def otherNumerics (a b : Word) : State :=
  { start [(10, a), (11, b)] [] with params := { Params.default with numerics := .implementation } }

theorem test_paddS_other_numerics :
    ends (runs 0x00B57653 (otherNumerics 0x400000003F800000#64 0x4080000040400000#64))
      (fun t => untrapped t && t.getF 12 == 0x40C0000040800000#64) = true := by decide

theorem test_fleS_other_numerics :
    (ends (runs 0xA0B50653 (otherNumerics 0x400000003F800000#64 0x4000000040400000#64))
        (fun t => t.getX 12 == 1#64 && t.fflags == 0#5) &&
      ends (runs 0xA0B50653 (otherNumerics 0x400000007FC00000#64 0x4000000040400000#64))
        (fun t => t.getX 12 == 0#64 && t.fflags == 0b10000#5)) = true := by decide

theorem test_pminS_other_numerics :
    ends (runs 0x28B50653 (otherNumerics 0x408000003F800000#64 0x4000000040400000#64))
      (fun t => t.getF 12 == 0x400000003F800000#64 && t.fflags == 0#5) = true := by decide

theorem test_loaded_machine_runs_again :
    ends (runs 0x00000013 (sample.raise (.illegalInstruction 0#32))) (fun t => untrapped t && t.pc == 0x1004#64) = true := by
  decide

end Sys2Proof.Tests
end

section
/-! PROOFS of the scope family (00_scope.md), first part: where an instruction leaves `pc` (R24), and what each code of
the rm field selects (R14, R26). -/

namespace Sys2Proof.Machine

/-! ### Where an instruction leaves `pc` (R24) -/

/-- The next state of an effect has trapped, or is the end of a jump, or has advanced. -/
theorem Effect.pc_cases {i : Instr} {s t : State} {r : Result} (h : Effect i s r) (hr : r = .next t) :
    t.trap ≠ none ∨ Instr.IsJump i ∨ t.pc = s.pc + 4#64 := by
  cases h with
  | raise | storeRaise => cases hr; exact .inl (by simp)
  | jump _ _ _ hi => exact .inr (.inl hi)
  | fp | f | pairFp | pair | cmp | x | store | store2 => cases hr; exact .inr (.inr (by simp))
  | refuse => cases hr

/-- Settles O16, from the list of everything an instruction can do. -/
theorem pcAdvances : Obligations.PcAdvances := by
  intro i s t _ hexec htrap hjump
  rcases (exec_effect i s).pc_cases hexec with h | ⟨rd, rs1, imm, h⟩ | h
  · exact absurd htrap h
  · exact absurd h (hjump rd rs1 imm)
  · exact h

/-! ### The codes of the rm field (R14, R26) -/

/-- A static code selects its rounding mode, whatever `frm` holds. -/
theorem rmMeaning_of_static {s : State} {rm : BitVec 3} {m : RMode} (h : staticRm rm = some m) :
    s.rmMeaning rm = .narrow m := by
  unfold staticRm at h
  split at h <;> cases h <;> rfl

/-- DYN selects the mode whose static code `frm` holds. -/
theorem rmMeaning_dyn {s : State} {m : RMode} (h : staticRm s.frm = some m) : s.rmMeaning 0b111#3 = .narrow m := by
  simp [State.rmMeaning, decodeRm, XRm.ofBits, h]

/-- DYN selects nothing while `frm` holds no static code. -/
theorem rmMeaning_dyn_illegal {s : State} (h : staticRm s.frm = none) : s.rmMeaning 0b111#3 = .illegal := by
  simp [State.rmMeaning, decodeRm, XRm.ofBits, h]

/-- Settles O30: the static codes, the 2x codes, and DYN for each value of `frm`. -/
theorem roundingModes : Obligations.RoundingModes := by
  intro s
  have dyn {c : BitVec 3} {m : RMode} (hc : staticRm c = some m) (h : s.frm = c) : s.rmMeaning 0b111#3 = .narrow m :=
    rmMeaning_dyn (h ▸ hc)
  have bad (h : s.frm = 0b101#3 ∨ s.frm = 0b110#3 ∨ s.frm = 0b111#3) : s.rmMeaning 0b111#3 = .illegal :=
    rmMeaning_dyn_illegal (by rcases h with h | h | h <;> rw [h] <;> rfl)
  exact ⟨rmMeaning_of_static rfl, rmMeaning_of_static rfl, rmMeaning_of_static rfl, rmMeaning_of_static rfl,
    rmMeaning_of_static rfl, rmMeaning_wide_iff.2 rfl, rmMeaning_wide_iff.2 rfl, dyn rfl, dyn rfl, dyn rfl, dyn rfl,
    dyn rfl, bad, rfl, rfl⟩

end Sys2Proof.Machine
end

section
/-! PROOFS of the scope family, second part: the comparisons, and minimum and maximum, as recommended
and in every instantiation (R12, R170, R180). -/

namespace Sys2Proof.Machine

variable {fmt : Fmt} {a b c : BitVec fmt.width}

/-! ### The order of the numbers -/

theorem two_pow_width (fmt : Fmt) : 2 ^ fmt.width = 2 * 2 ^ (fmt.width - 1) := by cases fmt <;> rfl

/-- A pattern without the sign bit is its own place in the order. -/
theorem orderKey_of_msb_false (h : a.msb = false) : orderKey fmt a = a.toNat := by
  have ha : a.toNat < 2 ^ (fmt.width - 1) := by
    rw [BitVec.msb_eq_decide, decide_eq_false_iff_not] at h; omega
  simp [orderKey, signedInt, h, Nat.mod_eq_of_lt ha]

/-- A pattern with the sign bit stands in the order where its magnitude, below zero, puts it. -/
theorem orderKey_of_msb_true (h : a.msb = true) : orderKey fmt a = (2 ^ (fmt.width - 1) : Nat) - (a.toNat : Int) := by
  have hlt := a.isLt
  rw [two_pow_width] at hlt
  have hge : 2 ^ (fmt.width - 1) ≤ a.toNat := by
    rwa [BitVec.msb_eq_decide, decide_eq_true_eq] at h
  have hmod : a.toNat % 2 ^ (fmt.width - 1) = a.toNat - 2 ^ (fmt.width - 1) := by
    rw [Nat.mod_eq_sub_mod hge, Nat.mod_eq_of_lt (by omega)]
  simp only [orderKey, signedInt, h, if_true, hmod]
  omega

@[simp] theorem orderKey_zeroOf (fmt : Fmt) (neg : Bool) : orderKey fmt (zeroOf fmt neg) = 0 := by
  cases fmt <;> cases neg <;> decide

@[simp] theorem msb_zeroOf (fmt : Fmt) (neg : Bool) : (zeroOf fmt neg).msb = neg := by
  cases fmt <;> cases neg <;> decide

@[simp] theorem isNaN_zeroOf (fmt : Fmt) (neg : Bool) : isNaN fmt (zeroOf fmt neg) = false := by
  cases fmt <;> cases neg <;> decide

@[simp] theorem isNaN_infinity (fmt : Fmt) (neg : Bool) : isNaN fmt (infinity fmt neg) = false := by
  cases fmt <;> cases neg <;> decide

/-! ### The comparisons (R170) -/

theorem ieeeLt_numbers (ha : isNaN fmt a = false) (hb : isNaN fmt b = false) :
    ieeeLt fmt a b = (decide (orderKey fmt a < orderKey fmt b), 0#5) := by simp [ieeeLt, ha, hb]

theorem ieeeLe_numbers (ha : isNaN fmt a = false) (hb : isNaN fmt b = false) :
    ieeeLe fmt a b = (decide (orderKey fmt a ≤ orderKey fmt b), 0#5) := by simp [ieeeLe, ha, hb]

theorem ieeeEq_numbers (ha : isNaN fmt a = false) (hb : isNaN fmt b = false) :
    ieeeEq fmt a b = (decide (orderKey fmt a = orderKey fmt b), 0#5) := by simp [ieeeEq, ha, hb]

theorem ieeeLt_nan (h : isNaN fmt a = true ∨ isNaN fmt b = true) : ieeeLt fmt a b = (false, flagNV) := by
  simp [ieeeLt, h]

theorem ieeeLe_nan (h : isNaN fmt a = true ∨ isNaN fmt b = true) : ieeeLe fmt a b = (false, flagNV) := by
  simp [ieeeLe, h]

theorem ieeeEq_nan (h : isNaN fmt a = true ∨ isNaN fmt b = true) :
    ieeeEq fmt a b = (false, flagIf (isSignalling fmt a || isSignalling fmt b) flagNV) := by
  simp [ieeeEq, h]

/-- Less-than holds of two numbers only, in this order. -/
theorem ieeeLt_true_iff :
    (ieeeLt fmt a b).1 = true ↔ isNaN fmt a = false ∧ isNaN fmt b = false ∧ orderKey fmt a < orderKey fmt b := by
  cases ha : isNaN fmt a <;> cases hb : isNaN fmt b <;> simp [ieeeLt, ha, hb]

/-- Exactly one of less, equal and greater holds of two numbers, and less-or-equal is the first or the second: the
order laws of integers, as the comparisons answer them. -/
theorem decide_order_laws (x y : Int) :
    (decide (x < y) || decide (x = y) || decide (y < x)) = true ∧ (decide (x < y) && decide (y < x)) = false ∧
      (decide (x < y) && decide (x = y)) = false ∧ (decide (x = y) && decide (y < x)) = false ∧
      decide (x = y) = decide (y = x) ∧ decide (x ≤ y) = (decide (x < y) || decide (x = y)) := by
  rcases lt_trichotomy x y with h | h | h
  · simp [h, h.le, h.ne, h.ne', h.not_gt]
  · simp [h]
  · simp [h, h.not_ge, h.ne, h.ne', h.not_gt]

/-- Settles O41: every machine compares two numbers by their places `orderKey` among the integers, so the laws are the
integers' own. -/
theorem recommendedComparisons : Obligations.RecommendedComparisons := by
  intro p fmt a b
  simp only [numericsOf_le, numericsOf_lt, numericsOf_eq]
  refine ⟨⟨rfl, rfl, rfl⟩, fun ha hb => ?_, fun h => ?_⟩
  · obtain ⟨total, hlt, hle, heq, symm, le_iff⟩ := decide_order_laws (orderKey fmt a) (orderKey fmt b)
    simp only [ieeeLt_numbers ha hb, ieeeLt_numbers hb ha, ieeeLe_numbers ha hb, ieeeEq_numbers ha hb,
      ieeeEq_numbers hb ha, ieeeEq_numbers (isNaN_zeroOf fmt true) (isNaN_zeroOf fmt false)]
    refine ⟨total, hlt, hle, heq, symm, le_iff, fun c hc => ⟨?_, ?_⟩, fun na nb => ?_, fun na nb => ?_, ?_, trivial,
      trivial, trivial⟩
    · simp only [ieeeLt_numbers hb hc, ieeeLt_numbers ha hc, decide_eq_true_eq]; exact lt_trans
    · simp only [ieeeLe_numbers hb hc, ieeeLe_numbers ha hc, decide_eq_true_eq]; exact le_trans
    · have ka := orderKey_of_msb_false na
      have kb := orderKey_of_msb_false nb
      exact decide_eq_decide.2 (by omega)
    · have ka := orderKey_of_msb_true na
      have kb := orderKey_of_msb_true nb
      exact decide_eq_decide.2 (by omega)
    · simp
  · simp only [ieeeLt_nan h, ieeeLe_nan h, ieeeEq_nan h]
    exact ⟨rfl, rfl, trivial, rfl⟩

/-! ### Minimum and maximum (R180, R181) -/

/-- The NaN cases that minimum and maximum share; of two numbers, the first operand if `first` says so. -/
def selectNumber (fmt : Fmt) (first : Bool) (a b : BitVec fmt.width) : FpResult fmt :=
  (if isNaN fmt a && isNaN fmt b then canonicalNaN fmt
    else if isNaN fmt a then b
    else if isNaN fmt b then a
    else if first then a else b,
    flagIf (isSignalling fmt a || isSignalling fmt b) flagNV)

/-- Minimum takes the first operand when it is the lesser, or equal and negative. -/
theorem ieeeMin_eq_selectNumber (fmt : Fmt) (a b : BitVec fmt.width) :
    ieeeMin fmt a b = selectNumber fmt
      (decide (orderKey fmt a < orderKey fmt b ∨ (orderKey fmt a = orderKey fmt b ∧ a.msb = true))) a b := by
  unfold ieeeMin selectNumber
  simp only [decide_eq_true_eq]
  split_ifs <;> rfl

/-- Maximum takes the first operand when it is the greater, or equal and not negative. -/
theorem ieeeMax_eq_selectNumber (fmt : Fmt) (a b : BitVec fmt.width) :
    ieeeMax fmt a b = selectNumber fmt
      (decide (orderKey fmt b < orderKey fmt a ∨ (orderKey fmt a = orderKey fmt b ∧ a.msb = false))) a b := by
  unfold ieeeMax selectNumber
  simp only [decide_eq_true_eq]
  split_ifs <;> rfl

section
variable {first : Bool}

theorem selectNumber_numbers (ha : isNaN fmt a = false) (hb : isNaN fmt b = false) :
    (selectNumber fmt first a b).1 = if first then a else b := by simp [selectNumber, ha, hb]

theorem selectNumber_nan_left (ha : isNaN fmt a = true) (hb : isNaN fmt b = false) :
    (selectNumber fmt first a b).1 = b := by simp [selectNumber, ha, hb]

theorem selectNumber_nan_right (ha : isNaN fmt a = false) (hb : isNaN fmt b = true) :
    (selectNumber fmt first a b).1 = a := by simp [selectNumber, ha, hb]

theorem selectNumber_nans (ha : isNaN fmt a = true) (hb : isNaN fmt b = true) :
    (selectNumber fmt first a b).1 = canonicalNaN fmt := by simp [selectNumber, ha, hb]

theorem selectNumber_mem : (selectNumber fmt first a b).1 = a ∨ (selectNumber fmt first a b).1 = b ∨
    isNaN fmt (selectNumber fmt first a b).1 = true := by
  unfold selectNumber
  dsimp only
  split_ifs
  · exact .inr (.inr (isNaN_canonicalNaN fmt))
  all_goals simp

end

/-- Of two numbers in order the minimum is the lesser, in either place. -/
theorem ieeeMin_ordered (ha : isNaN fmt a = false) (hb : isNaN fmt b = false) (h : orderKey fmt a < orderKey fmt b) :
    (ieeeMin fmt a b).1 = a ∧ (ieeeMin fmt b a).1 = a := by
  rw [ieeeMin_eq_selectNumber, ieeeMin_eq_selectNumber, selectNumber_numbers ha hb, selectNumber_numbers hb ha]
  simp [h, not_lt_of_gt h, ne_of_gt h]

/-- Of two numbers in order the maximum is the greater, in either place. -/
theorem ieeeMax_ordered (ha : isNaN fmt a = false) (hb : isNaN fmt b = false) (h : orderKey fmt a < orderKey fmt b) :
    (ieeeMax fmt a b).1 = b ∧ (ieeeMax fmt b a).1 = b := by
  rw [ieeeMax_eq_selectNumber, ieeeMax_eq_selectNumber, selectNumber_numbers ha hb, selectNumber_numbers hb ha]
  simp [h, not_lt_of_gt h, ne_of_lt h]

/-- The minimum of two numbers is one of them, and neither is below it. -/
theorem ieeeMin_numbers (ha : isNaN fmt a = false) (hb : isNaN fmt b = false) :
    ((ieeeMin fmt a b).1 = a ∧ orderKey fmt a ≤ orderKey fmt b) ∨
      ((ieeeMin fmt a b).1 = b ∧ orderKey fmt b ≤ orderKey fmt a) := by
  rw [ieeeMin_eq_selectNumber, selectNumber_numbers ha hb]
  split
  · next h => exact .inl ⟨rfl, by rw [decide_eq_true_eq] at h; omega⟩
  · next h => exact .inr ⟨rfl, by rw [decide_eq_true_eq] at h; omega⟩

/-- The maximum of two numbers is one of them, and neither is above it. -/
theorem ieeeMax_numbers (ha : isNaN fmt a = false) (hb : isNaN fmt b = false) :
    ((ieeeMax fmt a b).1 = a ∧ orderKey fmt b ≤ orderKey fmt a) ∨
      ((ieeeMax fmt a b).1 = b ∧ orderKey fmt a ≤ orderKey fmt b) := by
  rw [ieeeMax_eq_selectNumber, selectNumber_numbers ha hb]
  split
  · next h => exact .inl ⟨rfl, by rw [decide_eq_true_eq] at h; omega⟩
  · next h => exact .inr ⟨rfl, by rw [decide_eq_true_eq] at h; omega⟩

/-! ### The two instantiations a machine can have -/

theorem numericsOf_cases (p : Params) :
    numericsOf p = recommendedNumerics ∨ numericsOf p = conforming Config.numerics := by
  unfold numericsOf
  split
  · exact .inl rfl
  · exact .inr rfl

/-- What R180 lets a minimum or maximum of `a` and `b` be in any machine: an operand or a NaN, with NV exactly for a
signalling NaN. -/
def IsSelection (fmt : Fmt) (a b : BitVec fmt.width) (r : FpResult fmt) : Prop :=
  (r.1 = a ∨ r.1 = b ∨ isNaN fmt r.1 = true) ∧ r.2 = flagIf (isSignalling fmt a || isSignalling fmt b) flagNV

theorem isSelection_selectNumber {first : Bool} : IsSelection fmt a b (selectNumber fmt first a b) :=
  ⟨selectNumber_mem, rfl⟩

theorem IsSelection.conformingSelect {u r : FpResult fmt} (h : IsSelection fmt a b r) :
    IsSelection fmt a b (conformingSelect fmt a b u r) :=
  ⟨conformingSelect_mem h.1, conformingSelect_flags.trans h.2⟩

theorem isSelection_min (p : Params) (fmt : Fmt) (a b : BitVec fmt.width) :
    IsSelection fmt a b ((numericsOf p).min fmt a b) := by
  have recommended : IsSelection fmt a b (ieeeMin fmt a b) :=
    ieeeMin_eq_selectNumber fmt a b ▸ isSelection_selectNumber
  rcases numericsOf_cases p with h | h <;> rw [h]
  · exact recommended
  · exact recommended.conformingSelect

theorem isSelection_max (p : Params) (fmt : Fmt) (a b : BitVec fmt.width) :
    IsSelection fmt a b ((numericsOf p).max fmt a b) := by
  have recommended : IsSelection fmt a b (ieeeMax fmt a b) :=
    ieeeMax_eq_selectNumber fmt a b ▸ isSelection_selectNumber
  rcases numericsOf_cases p with h | h <;> rw [h]
  · exact recommended
  · exact recommended.conformingSelect

/-- Of two numbers apart in the order, the minimum and maximum of any machine are the recommended ones (R180). -/
theorem numericsOf_minMax_ordered (p : Params) (ha : isNaN fmt a = false) (hb : isNaN fmt b = false)
    (h : orderKey fmt a ≠ orderKey fmt b) :
    (numericsOf p).min fmt a b = ieeeMin fmt a b ∧ (numericsOf p).max fmt a b = ieeeMax fmt a b := by
  rcases numericsOf_cases p with e | e <;> rw [e]
  · exact ⟨rfl, rfl⟩
  · exact ⟨conformingSelect_ordered ha hb h, conformingSelect_ordered ha hb h⟩

/-- Settles O45: of two numbers `orderKey` and the sign select, and any machine's choice is the recommended one where the
order decides. -/
theorem recommendedMinMax : Obligations.RecommendedMinMax := by
  intro fmt a b
  refine ⟨fun ha hb => ?_, fun ha hb => ?_, fun ha hb => ?_, fun ha hb => ?_, ?_, fun p => ?_⟩
  · simp only [recommendedNumerics]
    rcases ieeeMin_numbers ha hb with ⟨mn, hmn⟩ | ⟨mn, hmn⟩ <;>
      rcases ieeeMax_numbers ha hb with ⟨mx, hmx⟩ | ⟨mx, hmx⟩ <;>
      simp [mn, mx, hmn, hmx, ieeeLe_numbers, ha, hb]
  · simp only [recommendedNumerics, ieeeMin_eq_selectNumber, ieeeMax_eq_selectNumber]
    exact ⟨selectNumber_nan_left ha hb, selectNumber_nan_left ha hb⟩
  · simp only [recommendedNumerics, ieeeMin_eq_selectNumber, ieeeMax_eq_selectNumber]
    exact ⟨selectNumber_nan_right ha hb, selectNumber_nan_right ha hb⟩
  · simp only [recommendedNumerics, ieeeMin_eq_selectNumber, ieeeMax_eq_selectNumber]
    exact ⟨selectNumber_nans ha hb, selectNumber_nans ha hb⟩
  · rintro rfl rfl
    simp [recommendedNumerics, ieeeMin_eq_selectNumber, ieeeMax_eq_selectNumber, selectNumber_numbers]
  · obtain ⟨min_mem, min_flags⟩ := isSelection_min p fmt a b
    obtain ⟨max_mem, max_flags⟩ := isSelection_max p fmt a b
    refine ⟨min_mem, max_mem, fun h => ?_, min_flags, max_flags⟩
    obtain ⟨ha, hb, hlt⟩ := ieeeLt_true_iff.1 (numericsOf_lt p ▸ h)
    obtain ⟨min_ab, max_ab⟩ := numericsOf_minMax_ordered p ha hb hlt.ne
    obtain ⟨min_ba, max_ba⟩ := numericsOf_minMax_ordered p hb ha hlt.ne'
    obtain ⟨hmn, hmn'⟩ := ieeeMin_ordered ha hb hlt
    obtain ⟨hmx, hmx'⟩ := ieeeMax_ordered ha hb hlt
    exact ⟨min_ab ▸ hmn, min_ba ▸ hmn', max_ab ▸ hmx, max_ba ▸ hmx'⟩

end Sys2Proof.Machine
end

section
/-! PROOFS of the scope family, third part: the recommended arithmetic on NaN operands (R12, R202, R253), and what every
instantiation keeps of it (P1 and P2 of R12). -/

namespace Sys2Proof.Machine

variable {fmt dst : Fmt} {m : RMode} {a b c : BitVec fmt.width}

/-! ### NaN operands of the recommended operations -/

/-- The operation on unpacked numbers behind each binary operation. -/
def arithVal (op : ArithOp) (fmt : Fmt) (m : RMode) (x y : FpVal) : FpResult fmt :=
  match op with
  | .add => addVal fmt m x y
  | .sub => addVal fmt m x y.negate
  | .mul => mulVal fmt m x y
  | .div => divVal fmt m x y

/-- A binary operation of the recommended record looks for NaNs first. -/
theorem arithFn_recommended (op : ArithOp) (fmt : Fmt) (m : RMode) (a b : BitVec fmt.width) :
    arithFn recommendedNumerics op fmt m a b = withoutNaN2 fmt a b (arithVal op fmt m) := by
  cases op <;> rfl

theorem arithFn_nan_left (op : ArithOp) (ha : isNaN fmt a = true) :
    arithFn recommendedNumerics op fmt m a b = nanResult fmt (isSignalling fmt a || isSignalling fmt b) := by
  simp [arithFn_recommended, withoutNaN2, ha]

theorem arithFn_nan_right (op : ArithOp) (hb : isNaN fmt b = true) :
    arithFn recommendedNumerics op fmt m a b = nanResult fmt (isSignalling fmt b || isSignalling fmt a) := by
  simp [arithFn_recommended, withoutNaN2, hb, Bool.or_comm]

theorem ieeeSqrt_nan (ha : isNaN fmt a = true) : ieeeSqrt fmt m a = nanResult fmt (isSignalling fmt a) := by
  simp [ieeeSqrt, ha]

theorem ieeeCvt_nan (ha : isNaN fmt a = true) : ieeeCvt dst fmt m a = nanResult dst (isSignalling fmt a) := by
  simp [ieeeCvt, ha]

theorem ieeeFma_nan {negp negc : Bool} (h : isNaN fmt a = true ∨ isNaN fmt b = true ∨ isNaN fmt c = true) :
    ieeeFma fmt m a b c negp negc = nanResult fmt (isSignalling fmt a || isSignalling fmt b || isSignalling fmt c ||
      infTimesZero (unpack fmt a) (unpack fmt b)) := by
  simp [ieeeFma, or_assoc, h]

/-- A NaN is no factor of inf * 0. -/
theorem infTimesZero_nan (h : isNaN fmt a = true ∨ isNaN fmt b = true) :
    infTimesZero (unpack fmt a) (unpack fmt b) = false := by
  rw [← Bool.not_eq_true, infTimesZero_iff]
  rintro (⟨rfl | rfl, rfl | rfl⟩ | ⟨rfl | rfl, rfl | rfl⟩) <;> simp at h

/-- Settles O40: each operation looks for a NaN operand first, and only a multiply-add goes on to look for inf * 0. -/
theorem recommendedNaNResults : Obligations.RecommendedNaNResults := by
  intro fmt dst m a b ha
  refine ⟨arithFn_nan_left .add ha, arithFn_nan_right .add ha, arithFn_nan_left .sub ha, arithFn_nan_right .sub ha,
    arithFn_nan_left .mul ha, arithFn_nan_right .mul ha, arithFn_nan_left .div ha, arithFn_nan_right .div ha,
    ieeeSqrt_nan ha, ieeeCvt_nan ha, fun c negp negc => ⟨?_, ?_, fun h => ?_, fun h => ?_⟩⟩
  · refine (ieeeFma_nan (.inl ha)).trans ?_
    rw [infTimesZero_nan (.inl ha), Bool.or_false]
    rfl
  · refine (ieeeFma_nan (.inr (.inl ha))).trans ?_
    rw [infTimesZero_nan (.inr ha), Bool.or_false, Bool.or_comm (isSignalling fmt b)]
    rfl
  · refine (ieeeFma_nan (.inr (.inr ha))).trans ?_
    rw [infTimesZero_iff.2 h, Bool.or_true]
    rfl
  · refine (ieeeFma_nan (.inr (.inr ha))).trans ?_
    rw [Bool.eq_false_iff.2 (mt infTimesZero_iff.1 h), Bool.or_false, Bool.or_comm _ (isSignalling fmt a),
      ← Bool.or_assoc]
    rfl

/-! ### NaN operands in every instantiation (P2) -/

/-- A binary operation of any other record is held to the recommended one. -/
theorem arithFn_conforming (N : Numerics) (op : ArithOp) (fmt : Fmt) (m : RMode) (a b : BitVec fmt.width) :
    arithFn (conforming N) op fmt m a b =
      conforming2 fmt m a b (arithFn N op fmt m a b) fun m => arithFn recommendedNumerics op fmt m a b := by
  cases op <;> rfl

theorem isNaN_arithFn (p : Params) (op : ArithOp) (h : (isNaN fmt a || isNaN fmt b) = true) :
    isNaN fmt (arithFn (numericsOf p) op fmt m a b).1 = true := by
  rcases numericsOf_cases p with e | e <;> rw [e]
  · rw [arithFn_recommended]
    exact isNaN_withoutNaN2 h
  · rw [arithFn_conforming, conforming2, h]
    exact isNaN_conformingOp

theorem isNaN_fma (p : Params) {negp negc : Bool} (h : isNaN fmt a = true ∨ isNaN fmt b = true ∨ isNaN fmt c = true) :
    isNaN fmt ((numericsOf p).fma fmt m a b c negp negc).1 = true := by
  rcases numericsOf_cases p with e | e <;> rw [e]
  · exact (congrArg (fun r => isNaN fmt r.1) (ieeeFma_nan h)).trans (isNaN_canonicalNaN fmt)
  · have h' : (isNaN fmt a || isNaN fmt b || isNaN fmt c) = true := by simpa [or_assoc] using h
    dsimp only [conforming]
    rw [conformingFma, h']
    exact isNaN_conformingOp

theorem isNaN_sqrt (p : Params) (h : isNaN fmt a = true) : isNaN fmt ((numericsOf p).sqrt fmt m a).1 = true := by
  rcases numericsOf_cases p with e | e <;> rw [e]
  · exact (congrArg (fun r => isNaN fmt r.1) (ieeeSqrt_nan h)).trans (isNaN_canonicalNaN fmt)
  · simp only [conforming, conformingSqrt, h, Bool.not_true, Bool.false_and, Bool.false_eq_true, if_false]
    exact isNaN_conformingOp

theorem isNaN_cvt (p : Params) (h : isNaN fmt a = true) : isNaN dst ((numericsOf p).cvt dst fmt m a).1 = true := by
  rcases numericsOf_cases p with e | e <;> rw [e]
  · exact (congrArg (fun r => isNaN dst r.1) (ieeeCvt_nan h)).trans (isNaN_canonicalNaN dst)
  · exact isNaN_conformingCvt h

/-- A selection between two NaNs is a NaN. -/
theorem IsSelection.isNaN {r : FpResult fmt} (h : IsSelection fmt a b r) (ha : isNaN fmt a = true)
    (hb : isNaN fmt b = true) : isNaN fmt r.1 = true := by
  obtain ⟨h | h | h, _⟩ := h
  · rwa [h]
  · rwa [h]
  · exact h

/-- An instruction that is a 64-bit operation leaves a NaN in each lane where a source has one (R120). -/
theorem arith64_lane_isNaN {i : Instr} {op : ArithOp} {rd rs1 rs2 : FReg} {rm : BitVec 3} {s : State} {k : Nat}
    (hexec : exec i s = arith64 i op fmt rd rs1 rs2 rm s) (hrm : s.rmMeaning rm = .narrow m) (hk : k < lanesOf fmt)
    (h : isNaN fmt (fmtLane fmt k (s.getF rs1)) = true ∨ isNaN fmt (fmtLane fmt k (s.getF rs2)) = true) :
    ∃ t, exec i s = .next t ∧ isNaN fmt (fmtLane fmt k (t.getF rd)) = true := by
  rw [arith64, withRoundingOrX_narrow hrm] at hexec
  refine ⟨_, hexec, ?_⟩
  rw [State.getF_advance, State.getF_accrue, State.getF_setF_same, State.packedArith, fmtLane_packed2 _ _ _ hk]
  exact isNaN_arithFn s.params op (by simpa using h)

/-! ### Exact results in every instantiation (P1) -/

/-- A result that needed no rounding and is a number, zero or infinity, but no subnormal one. -/
def IsExact (fmt : Fmt) (r : FpResult fmt) : Prop :=
  r.2.getLsbD 0 = false ∧ isNaN fmt r.1 = false ∧ isSubnormal fmt r.1 = false

theorem and_flagNX_of_not_inexact {fl : FpFlags} (h : fl.getLsbD 0 = false) : fl &&& flagNX = 0#5 := by
  revert h; revert fl; decide

/-- The record is held to an exact result. -/
theorem IsExact.heldToOperation {u : FpResult fmt} {r : RMode → FpResult fmt} (h : IsExact fmt (r m)) :
    (heldToOperation fmt m false u r).1 = (r m).1 := by
  obtain ⟨hexact, hnumber, hnormal⟩ := h
  exact heldToOperation_exact (and_flagNX_of_not_inexact hexact) hnormal hnumber

theorem arithFn_exact (p : Params) (op : ArithOp) (ha : isNaN fmt a = false) (hb : isNaN fmt b = false)
    (sa : isSubnormal fmt a = false) (sb : isSubnormal fmt b = false)
    (h : IsExact fmt (arithFn recommendedNumerics op fmt m a b)) :
    (arithFn (numericsOf p) op fmt m a b).1 = (arithFn recommendedNumerics op fmt m a b).1 := by
  rcases numericsOf_cases p with e | e <;> rw [e]
  rw [arithFn_conforming, conforming2_numbers ha hb sa sb]
  exact h.heldToOperation

theorem fma_exact (p : Params) {negp negc : Bool} (ha : isNaN fmt a = false) (hb : isNaN fmt b = false)
    (hc : isNaN fmt c = false) (sa : isSubnormal fmt a = false) (sb : isSubnormal fmt b = false)
    (sc : isSubnormal fmt c = false) (h : IsExact fmt (recommendedNumerics.fma fmt m a b c negp negc)) :
    ((numericsOf p).fma fmt m a b c negp negc).1 = (recommendedNumerics.fma fmt m a b c negp negc).1 := by
  rcases numericsOf_cases p with e | e <;> rw [e]
  dsimp only [conforming]
  rw [conformingFma_numbers ha hb hc sa sb sc]
  exact h.heldToOperation

theorem sqrt_exact (p : Params) (ha : isNaN fmt a = false) (sa : isSubnormal fmt a = false) (hm : a.msb = false)
    (h : IsExact fmt (recommendedNumerics.sqrt fmt m a)) :
    ((numericsOf p).sqrt fmt m a).1 = (recommendedNumerics.sqrt fmt m a).1 := by
  rcases numericsOf_cases p with e | e <;> rw [e]
  dsimp only [conforming]
  rw [conformingSqrt_positive ha sa hm]
  exact h.heldToOperation

/-- A widening conversion is the recommended one in any mode; a narrowing one is held to it, as an exact result does not
overflow. -/
theorem cvt_exact (p : Params) (ha : isNaN fmt a = false) (sa : isSubnormal fmt a = false)
    (h : IsExact dst (recommendedNumerics.cvt dst fmt m a)) :
    ((numericsOf p).cvt dst fmt m a).1 = (recommendedNumerics.cvt dst fmt m a).1 := by
  rcases numericsOf_cases p with e | e <;> rw [e]
  dsimp only [conforming]
  cases hw : widens dst fmt with
  | true => simp [conformingCvt, hw, ha, recommendedNumerics, ieeeCvt_widens (rm := m) hw]
  | false =>
    rw [conformingCvt_numbers ha sa hw (ieeeCvt_exact_no_overflow (and_flagNX_of_not_inexact h.1))]
    exact h.heldToOperation

/-! ### Both together -/

/-- Settles O39: each instantiation looks for a NaN operand first (P2), and what is held to the named operation has its
exact results (P1). -/
theorem naNPreservation : Obligations.NaNPreservation := by
  refine ⟨fun s rd rs1 rs2 rm m k hrm => ⟨fun hk h => ?_, fun hk h => ?_⟩,
    fun p fmt m a b => ⟨fun h => ?_, fun ha => ?_, fun ha hb => ?_, ?_⟩, fun p fmt m a ha sa => ⟨?_, ?_, ?_⟩⟩
  · simp only [List.forall_mem_cons, List.not_mem_nil, false_implies, implies_true, and_true]
    exact ⟨arith64_lane_isNaN (exec_paddS s rd rs1 rs2 rm) hrm hk h,
      arith64_lane_isNaN (exec_psubS s rd rs1 rs2 rm) hrm hk h,
      arith64_lane_isNaN (exec_pmulS s rd rs1 rs2 rm) hrm hk h⟩
  · simp only [List.forall_mem_cons, List.not_mem_nil, false_implies, implies_true, and_true]
    exact ⟨arith64_lane_isNaN (exec_paddH s rd rs1 rs2 rm) hrm hk h,
      arith64_lane_isNaN (exec_psubH s rd rs1 rs2 rm) hrm hk h,
      arith64_lane_isNaN (exec_pmulH s rd rs1 rs2 rm) hrm hk h⟩
  · have h' : (isNaN fmt a || isNaN fmt b) = true := by simpa using h
    exact ⟨isNaN_arithFn p .add h', isNaN_arithFn p .sub h', isNaN_arithFn p .mul h', isNaN_arithFn p .div h',
      fun c np nc => ⟨isNaN_fma p (h.imp_right .inl), isNaN_fma p (.inr h)⟩⟩
  · exact ⟨isNaN_sqrt p ha, fun dst => isNaN_cvt p ha⟩
  · exact ⟨(isSelection_min p fmt a b).isNaN ha hb, (isSelection_max p fmt a b).isNaN ha hb⟩
  · intro f hf ha hb sa sb hexact hnumber hnormal
    have key (op : ArithOp) := arithFn_exact p (m := m) op ha hb sa sb
    simp only [List.mem_cons, List.not_mem_nil, or_false] at hf
    rcases hf with rfl | rfl | rfl | rfl
    · exact key .add ⟨hexact, hnumber, hnormal⟩
    · exact key .sub ⟨hexact, hnumber, hnormal⟩
    · exact key .mul ⟨hexact, hnumber, hnormal⟩
    · exact key .div ⟨hexact, hnumber, hnormal⟩
  · exact fun b c np nc hb hc sb sc hx => fma_exact p ha hb hc sa sb sc hx
  · exact sqrt_exact p ha sa
  · exact fun dst => cvt_exact p ha sa

end Sys2Proof.Machine
end

section
/-! PROOFS of the state family (10_state.md), first part: the invariant, at reset and along steps (R23, R24, R40, R294,
R311, R330), and the control state no step loses (R25, R27, R330). -/

namespace Sys2Proof.Machine

/-! ### The invariant under the operations of the state -/

theorem State.Inv.setF {s : State} (h : s.Inv) (r : FReg) (v : Word) : (s.setF r v).Inv :=
  ⟨h.pcAligned, h.x0Zero, h.memWf, h.storedListed, h.trapPc⟩

theorem State.Inv.setPair {s : State} (h : s.Inv) (r : FReg) (lo hi : Word) : (s.setPair r lo hi).Inv :=
  (h.setF r lo).setF (highReg r) hi

theorem State.Inv.accrue {s : State} (h : s.Inv) (fl : FpFlags) : (s.accrue fl).Inv :=
  ⟨h.pcAligned, h.x0Zero, h.memWf, h.storedListed, h.trapPc⟩

/-- The storage of `x[0]` is out of reach: a write to it is discarded (R23). -/
theorem State.setX_x_zero (s : State) (r : XReg) (v : Word) : (s.setX r v).x[0] = s.x[0] := by
  by_cases hr : r = 0#5
  · simp [State.setX, hr]
  · have hn : r.toNat ≠ 0 := fun e => hr (BitVec.eq_of_toNat_eq e)
    simp [State.setX, hr, Vector.getElem_set_ne, hn]

theorem State.Inv.setX {s : State} (h : s.Inv) (r : XReg) (v : Word) : (s.setX r v).Inv where
  pcAligned := by simpa using h.pcAligned
  x0Zero := by rw [State.setX_x_zero]; exact h.x0Zero
  memWf := by simpa using h.memWf
  storedListed := by simpa using h.storedListed
  trapPc := by simpa using h.trapPc

/-- A store lists the byte whose address it notes, and unlists none. -/
theorem State.Inv.writeByte {s : State} (h : s.Inv) (a : Word) (b : Byte) : (s.writeByte a b).Inv where
  pcAligned := h.pcAligned
  x0Zero := h.x0Zero
  memWf := Memory.wf_write a.isLt b h.memWf
  storedListed := by
    intro i hi
    rw [State.writeByte_mem]
    by_cases hia : i = a.toNat
    · rw [hia, Memory.read_write_same]; rfl
    · rw [Memory.read_write_ne _ hia]
      exact h.storedListed i ((List.mem_cons.1 hi).resolve_left hia)
  trapPc := h.trapPc

theorem State.Inv.memWrite {s : State} (h : s.Inv) (ea v : Word) (n : Nat) : (s.memWrite ea v n).Inv := by
  induction n with
  | zero => exact h
  | succ n ih => exact ih.writeByte _ _

/-- Raising an exception is where the recorded `pc` comes from (R311). -/
theorem State.Inv.raise {s : State} (h : s.Inv) (e : Cause) : (s.raise e).Inv :=
  ⟨h.pcAligned, h.x0Zero, h.memWf, h.storedListed, fun _ ht => by cases ht; rfl⟩

/-- A jump keeps the invariant of a machine that has not trapped when its target is a multiple of 4 (R294). -/
theorem State.Inv.jump {s : State} (h : s.Inv) (ht : s.trap = none) {a : Word} (ha : a.extractLsb' 0 2 = 0#2) :
    (s.jump a).Inv :=
  ⟨ha, h.x0Zero, h.memWf, h.storedListed, fun t e => by rw [State.jump_trap, ht] at e; cases e⟩

/-- The instruction after one at a multiple of 4 is at a multiple of 4 (R24). -/
theorem add_four_aligned {a : Word} (h : a.extractLsb' 0 2 = 0#2) : (a + 4#64).extractLsb' 0 2 = 0#2 := by
  have hn : a.toNat % 4 = 0 := by simpa using congrArg BitVec.toNat h
  apply BitVec.eq_of_toNat_eq
  simp [BitVec.toNat_add]
  omega

theorem State.Inv.advance {s : State} (h : s.Inv) (ht : s.trap = none) : s.advance.Inv :=
  h.jump ht (add_four_aligned h.pcAligned)

/-! ### The invariant along steps and at reset -/

/-- Whatever a running machine's instruction does keeps the invariant. -/
theorem Effect.inv {i : Instr} {s t : State} {r : Result} (h : Effect i s r) (hr : r = .next t) (hs : s.Inv)
    (ht : s.trap = none) : t.Inv := by
  cases h with
  | raise e => cases hr; exact hs.raise e
  | fp rd v fl => cases hr; exact ((hs.setF rd v).accrue fl).advance (by simpa using ht)
  | f rd v => cases hr; exact (hs.setF rd v).advance (by simpa using ht)
  | pairFp rd lo hi fl => cases hr; exact ((hs.setPair rd lo hi).accrue fl).advance (by simpa using ht)
  | pair rd lo hi => cases hr; exact (hs.setPair rd lo hi).advance (by simpa using ht)
  | cmp rd v fl => cases hr; exact ((hs.setX rd v).accrue fl).advance (by simpa using ht)
  | x rd v => cases hr; exact (hs.setX rd v).advance (by simpa using ht)
  | jump rd v a _ ha => cases hr; exact (hs.setX rd v).jump (by simpa using ht) ha
  | store ea v n => cases hr; exact (hs.memWrite ea v n).advance (by simpa using ht)
  | store2 ea lo hi =>
    cases hr
    exact ((hs.memWrite ea lo 8).memWrite (byteAddr ea 8) hi 8).advance (by simpa using ht)
  | storeRaise ea a v => cases hr; exact (hs.memWrite a v 8).raise _
  | refuse => cases hr

/-- Settles O12: a step is an instruction of a machine that has not trapped, or raises an exception. -/
theorem stepKeepsInv : Obligations.StepKeepsInv := by
  intro s t hs hstep
  obtain ⟨ht, _, ⟨i, hi⟩ | ⟨e, rfl⟩⟩ := step_cases hstep
  · exact (exec_effect i s).inv hi hs ht
  · exact hs.raise e

/-- A start state meets the invariant when its reset address is a multiple of 4 (R330). -/
theorem State.resetWith_inv (p : Params) {a : Word} (ha : a.extractLsb' 0 2 = 0#2) : (State.resetWith p a).Inv where
  pcAligned := ha
  x0Zero := by simp [State.resetWith]
  memWf := State.resetWith_mem_wf p a
  storedListed := by simp [State.resetWith]
  trapPc := by simp [State.resetWith]

theorem resetPc_aligned : Config.resetPc.extractLsb' 0 2 = 0#2 := by decide

/-- Settles O11: RESET_PC is a multiple of 4. -/
theorem resetInv : Obligations.ResetInv := State.resetWith_inv Params.default resetPc_aligned

/-- Settles O13: the fields of a start state as they are set, none of its bytes listed. -/
theorem resetState : Obligations.ResetState :=
  fun _ _ => ⟨rfl, State.getX_zero _, rfl, fun _ => rfl, rfl, resetPc_aligned⟩

/-! ### The control state -/

/-- What every step leaves of the control state: `frm` and the parameters as they are, and every flag that is set
(R25, R27, R330). -/
structure KeepsControl (s t : State) : Prop where
  frm : t.frm = s.frm
  params : t.params = s.params
  flags : ∃ fl, t.fflags = s.fflags ||| fl

theorem KeepsControl.of_flags_eq {s t : State} (frm : t.frm = s.frm) (params : t.params = s.params)
    (flags : t.fflags = s.fflags) : KeepsControl s t :=
  ⟨frm, params, 0#5, by simpa using flags⟩

/-- Flags are sticky: none that is set is cleared (R27). -/
theorem KeepsControl.sticky {s t : State} (h : KeepsControl s t) {b : Nat} (hb : s.fflags.getLsbD b = true) :
    t.fflags.getLsbD b = true := by
  obtain ⟨fl, e⟩ := h.flags
  rw [e, BitVec.getLsbD_or, hb, Bool.true_or]

/-- An instruction touches the control state only where it accrues flags. -/
theorem Effect.keepsControl {i : Instr} {s t : State} {r : Result} (h : Effect i s r) (hr : r = .next t) :
    KeepsControl s t := by
  cases h with
  | fp _ _ fl | pairFp _ _ _ fl | cmp _ _ fl => cases hr; exact ⟨by simp, by simp, fl, by simp⟩
  | raise | f | pair | x | jump | store | store2 | storeRaise =>
    cases hr; exact .of_flags_eq (by simp) (by simp) (by simp)
  | refuse => cases hr

theorem step_keepsControl {s t : State} (h : step s = .next t) : KeepsControl s t := by
  obtain ⟨_, _, ⟨i, hi⟩ | ⟨e, rfl⟩⟩ := step_cases h
  · exact (exec_effect i s).keepsControl hi
  · exact .of_flags_eq rfl rfl rfl

/-- The bits of `fcsr`: the flags below, the mode above them, then zeros (R25). -/
theorem State.getLsbD_fcsr (s : State) (b : Nat) :
    s.fcsr.getLsbD b = if b < 5 then s.fflags.getLsbD b else s.frm.getLsbD (b - 5) := by
  rw [State.fcsr, BitVec.getLsbD_setWidth, BitVec.getLsbD_append]
  by_cases hb : b < 64
  · simp [hb]
  · rw [if_neg (by omega : ¬ b < 5), BitVec.getLsbD_of_ge s.frm (b - 5) (by omega), Bool.and_false]

theorem State.getLsbD_withFcsr_fflags (s : State) (v : Word) {b : Nat} (hb : b < 5) :
    (s.withFcsr v).fflags.getLsbD b = v.getLsbD b := by
  simp [hb]

theorem State.getLsbD_withFcsr_frm (s : State) (v : Word) {b : Nat} (hb : b < 3) :
    (s.withFcsr v).frm.getLsbD b = v.getLsbD (5 + b) := by
  simp [hb]

/-- Reading `fcsr` after a write gives the eight bits that were written (R25). -/
theorem State.getLsbD_fcsr_withFcsr (s : State) (v : Word) (b : Nat) :
    (s.withFcsr v).fcsr.getLsbD b = (decide (b < 8) && v.getLsbD b) := by
  rw [State.getLsbD_fcsr]
  split
  · next h =>
    rw [State.getLsbD_withFcsr_fflags s v h, decide_eq_true (by omega : b < 8), Bool.true_and]
  · next h =>
    by_cases h8 : b < 8
    · rw [State.getLsbD_withFcsr_frm s v (by omega), Nat.add_sub_cancel' (by omega), decide_eq_true h8, Bool.true_and]
    · rw [BitVec.getLsbD_of_ge _ _ (by omega), decide_eq_false h8, Bool.false_and]

/-- Settles O14: from what each step leaves of the control state, and from the bits of `fcsr`. -/
theorem controlStateUnderSteps : Obligations.ControlStateUnderSteps := by
  refine ⟨fun s t h => ?_, fun s => ⟨fun b hb => ?_, fun b _ => ?_, fun b hb => ?_⟩, fun s v =>
    ⟨fun b => s.getLsbD_withFcsr_fflags v, fun b => s.getLsbD_withFcsr_frm v, s.getLsbD_fcsr_withFcsr v, rfl⟩⟩
  · have kept := step_keepsControl h
    exact ⟨fun b => kept.sticky, kept.frm, kept.params⟩
  · rw [s.getLsbD_fcsr, if_pos hb]
  · rw [s.getLsbD_fcsr, if_neg (by omega), Nat.add_sub_cancel_left]
  · rw [s.getLsbD_fcsr, if_neg (by omega), BitVec.getLsbD_of_ge _ _ (by omega)]

end Sys2Proof.Machine
end

section
/-! PROOFS of the state family, second part: the operands that make an instruction illegal, the rounding mode (R26, R78)
and the register pairs (R22, R79). -/

namespace Sys2Proof.Machine

/-! ### Rounding modes that are illegal (R26, R78) -/

/-- The instruction reads its rounding mode from the field `rm` before all else, and without an X form (`hasX`) a 2x code
is illegal. -/
def ReadsRm (i : Instr) (rm : BitVec 3) (hasX : Bool) (s : State) : Prop :=
  ∃ x k, exec i s = withRoundingOrX i rm s x k ∧ (hasX = false → ∀ c, x c = illegal i s)

theorem ReadsRm.of_withRoundingOrX {i : Instr} {rm : BitVec 3} {s : State} {x : XRm → Result} {k : RMode → Result}
    (h : exec i s = withRoundingOrX i rm s x k) : ReadsRm i rm true s :=
  ⟨x, k, h, fun e => by cases e⟩

theorem ReadsRm.of_withRounding {i : Instr} {rm : BitVec 3} {s : State} {k : RMode → Result}
    (h : exec i s = withRounding i rm s k) : ReadsRm i rm false s :=
  ⟨fun _ => illegal i s, k, h, fun _ _ => rfl⟩

/-- Every instruction with a rounding-mode field reads it first. -/
theorem readsRm_of_rmField {i : Instr} {rm : BitVec 3} {hasX : Bool} (s : State) (h : i.rmField = some (rm, hasX)) :
    ReadsRm i rm hasX s := by
  cases i with
  | paddS | psubS | pmulS | paddH | psubH | pmulH | faddD | fsubD | fmulD | fdivD | pdivS | pdivH | pcvtSH | pcvtHS
  | pcvtSBf16 | pcvtBf16S | psqrtS | fsqrtD => cases h; exact .of_withRoundingOrX rfl
  | fcvtSD | fcvtDS | fcvtDH | fcvtHD | fcvtDBf16 | fcvtBf16D | pcvthiSH | pcvthiSBf16 | psqrtH | pmaddS | pmaddH | pmsubS
  | pmsubH | pnmsubS | pnmsubH | pnmaddS | pnmaddH => cases h; exact .of_withRounding rfl
  | _ => cases h

/-- DYN is illegal while `frm` holds no static code (R26). -/
theorem ReadsRm.illegal_of_dyn {i : Instr} {hasX : Bool} {s : State} (h : ReadsRm i 0b111#3 hasX s)
    (hfrm : staticRm s.frm = none) : RaisesIllegal i s := by
  obtain ⟨x, k, hexec, _⟩ := h
  exact hexec.trans (withRoundingOrX_illegal (rmMeaning_dyn_illegal hfrm))

/-- A 2x code is reserved on an instruction without an X form (R78). -/
theorem ReadsRm.illegal_of_wide {i : Instr} {rm : BitVec 3} {s : State} {c : XRm} (h : ReadsRm i rm false s)
    (hrm : XRm.ofBits rm = some c) : RaisesIllegal i s := by
  obtain ⟨x, k, hexec, hx⟩ := h
  exact hexec.trans ((withRoundingOrX_wide (rmMeaning_wide_iff.2 hrm)).trans (hx rfl c))

/-- Settles O31: every instruction with a rounding-mode field reads it first. -/
theorem illegalRoundingModes : Obligations.IllegalRoundingModes := by
  intro i s rm hasX hfield
  have reads := readsRm_of_rmField s hfield
  refine ⟨fun hrm hfrm => ?_, fun hrm hx => ?_⟩
  · subst hrm
    exact reads.illegal_of_dyn (by rcases hfrm with h | h | h <;> rw [h] <;> rfl)
  · subst hx
    rcases hrm with rfl | rfl
    · exact reads.illegal_of_wide (c := .rtz2) rfl
    · exact reads.illegal_of_wide (c := .rne2) rfl

/-! ### Odd pair operands (R22, R79) -/

/-- The instruction requires its pair operands to be even before all else. -/
def RequiresEvenPairs (i : Instr) (s : State) : Prop :=
  ∃ c k, exec i s = requiring c i s k ∧ (c = true → ∀ r ∈ i.pairOperands, evenReg r = true)

theorem RequiresEvenPairs.of_one {i : Instr} {s : State} {p : Bool} {r : FReg} {k : Result}
    (h : exec i s = requiring (p && evenReg r) i s k) (hp : i.pairOperands = [r]) : RequiresEvenPairs i s :=
  ⟨_, _, h, fun hc => by simpa [hp] using (Bool.and_eq_true_iff.1 hc).2⟩

theorem RequiresEvenPairs.of_two {i : Instr} {s : State} {p : Bool} {r q : FReg} {k : Result}
    (h : exec i s = requiring (p && (evenReg r && evenReg q)) i s k) (hp : i.pairOperands = [r, q]) :
    RequiresEvenPairs i s :=
  ⟨_, _, h, fun hc => by simpa [hp] using (Bool.and_eq_true_iff.1 hc).2⟩

theorem RequiresEvenPairs.of_three {i : Instr} {s : State} {p : Bool} {r q u : FReg} {k : Result}
    (h : exec i s = requiring (p && (evenReg r && evenReg q && evenReg u)) i s k) (hp : i.pairOperands = [r, q, u]) :
    RequiresEvenPairs i s :=
  ⟨_, _, h, fun hc => by simpa [hp, and_assoc] using (Bool.and_eq_true_iff.1 hc).2⟩

/-- Every instruction with a pair operand checks its pairs first. -/
theorem requiresEvenPairs_of_mem {i : Instr} {r : FReg} (s : State) (h : r ∈ i.pairOperands) :
    RequiresEvenPairs i s := by
  cases i with
  | paddxS | psubxS | pmulxS | paddxD | psubxD | pmulxD | paddxH | psubxH | pmulxH | pdivxS | pdivxD | pdivxH =>
    exact .of_three rfl rfl
  | psqrtxS | psqrtxD => exact .of_two rfl rfl
  | flx | fsx | pcvtxSH | pcvtxHS | pcvtxSBf16 | pcvtxBf16S => exact .of_one rfl rfl
  | _ => cases h

theorem RequiresEvenPairs.illegal_of_odd {i : Instr} {s : State} {r : FReg} (h : RequiresEvenPairs i s)
    (hr : r ∈ i.pairOperands) (hodd : r.getLsbD 0 = true) : RaisesIllegal i s := by
  obtain ⟨c, k, hexec, hc⟩ := h
  have hfalse : c = false := Bool.eq_false_iff.2 fun htrue => by
    have heven := hc htrue r hr
    rw [evenReg, hodd] at heven
    cases heven
  exact hexec.trans (requiring_false hfalse)

/-- Settles O33: every instruction with a pair operand checks its pairs first. -/
theorem oddPairIsIllegal : Obligations.OddPairIsIllegal :=
  fun _ s _ hr hodd => (requiresEvenPairs_of_mem s hr).illegal_of_odd hr hodd

end Sys2Proof.Machine
end

section
/-! PROOFS of the state family, third part: the scalar results that are NaN-boxed (R30, R131, R203, R231), the units that
are emulated (R32, R306), and JALR (R294). -/

namespace Sys2Proof.Machine

/-! ### Boxed scalars and high lanes (R30, R32) -/

/-- Finishing with a NaN-boxed element boxes a scalar. -/
theorem finishFp_boxesScalar {i : Instr} {s : State} {rd : FReg} {fmt : Fmt} {r : FpResult fmt}
    (h : exec i s = s.finishFp rd (nanbox r.1) r.2) : BoxesScalar i fmt r rd s :=
  have hw : fmt.width ≤ 64 := by cases fmt <;> decide
  finishFp_writesF h ⟨lane_zero_nanbox hw r.1, fun _ => getLsbD_nanbox_high r.1⟩

/-- Some high lane is no NaN exactly where `highNaN` does not hold (R32). -/
theorem highNaN_eq_false_iff {fmt : Fmt} {v : Word} :
    highNaN fmt v = false ↔ ∃ k, 1 ≤ k ∧ k < lanesOf fmt ∧ isNaN fmt (fmtLane fmt k v) = false := by
  rw [← Bool.not_eq_true, highNaN_iff]
  simp

theorem highNaN_both {fmt : Fmt} {a b : Word} (h : ∀ k, 1 ≤ k → k < lanesOf fmt →
    isNaN fmt (fmtLane fmt k a) = true ∧ isNaN fmt (fmtLane fmt k b) = true) :
    (highNaN fmt a && highNaN fmt b) = true :=
  Bool.and_eq_true_iff.2
    ⟨highNaN_iff.2 fun k h1 hk => (h k h1 hk).1, highNaN_iff.2 fun k h1 hk => (h k h1 hk).2⟩

theorem not_highNaN_both {fmt : Fmt} {a b : Word} (h : ∃ k, 1 ≤ k ∧ k < lanesOf fmt ∧
    (isNaN fmt (fmtLane fmt k a) = false ∨ isNaN fmt (fmtLane fmt k b) = false)) :
    (highNaN fmt a && highNaN fmt b) = false := by
  obtain ⟨k, h1, hk, h | h⟩ := h
  · rw [highNaN_eq_false_iff.2 ⟨k, h1, hk, h⟩, Bool.false_and]
  · rw [highNaN_eq_false_iff.2 ⟨k, h1, hk, h⟩, Bool.and_false]

/-! ### Division without a packed unit (R131) -/

section Divide

variable {i : Instr} {s : State} {fmt : Fmt} {rd rs1 rs2 : FReg} {rm : BitVec 3} {m : RMode}

/-- What PDIV does without a packed unit. -/
theorem packedDivide_scalarOrEmulate (hrm : s.rmMeaning rm = .narrow m) (himpl : s.params.pdivImpl = .scalarOrEmulate) :
    packedDivide i fmt rd rs1 rs2 rm s =
      if highNaN fmt (s.getF rs1) && highNaN fmt (s.getF rs2) then
        s.finishFp rd (s.scalarArith .div fmt m (s.getF rs1) (s.getF rs2)).1
          (s.scalarArith .div fmt m (s.getF rs1) (s.getF rs2)).2
      else if s.params.emulationVisible then emulate i s
      else s.finishFp rd (s.packedArith .div fmt m (s.getF rs1) (s.getF rs2)).1
        (s.packedArith .div fmt m (s.getF rs1) (s.getF rs2)).2 := by
  rw [packedDivide, withRoundingOrX_narrow hrm]
  simp only [himpl]

/-- NaN high lanes in both sources are the mark of two scalars. -/
theorem packedDivide_boxesScalar (hexec : exec i s = packedDivide i fmt rd rs1 rs2 rm s)
    (hrm : s.rmMeaning rm = .narrow m) (himpl : s.params.pdivImpl = .scalarOrEmulate)
    (h : ∀ k, 1 ≤ k → k < lanesOf fmt →
      isNaN fmt (fmtLane fmt k (s.getF rs1)) = true ∧ isNaN fmt (fmtLane fmt k (s.getF rs2)) = true) :
    BoxesScalar i fmt ((numericsOf s.params).div fmt m (fmtLane fmt 0 (s.getF rs1)) (fmtLane fmt 0 (s.getF rs2)))
      rd s := by
  rw [packedDivide_scalarOrEmulate hrm himpl, if_pos (highNaN_both h)] at hexec
  exact finishFp_boxesScalar hexec

/-- Any other high lane is a packed operand, which the unit leaves to the emulator. -/
theorem packedDivide_raises (hexec : exec i s = packedDivide i fmt rd rs1 rs2 rm s)
    (hrm : s.rmMeaning rm = .narrow m) (himpl : s.params.pdivImpl = .scalarOrEmulate)
    (h : ∃ k, 1 ≤ k ∧ k < lanesOf fmt ∧
      (isNaN fmt (fmtLane fmt k (s.getF rs1)) = false ∨ isNaN fmt (fmtLane fmt k (s.getF rs2)) = false))
    (hv : s.params.emulationVisible = true) : Raises i s (.emulationTrap (encode i)) := by
  rw [packedDivide_scalarOrEmulate hrm himpl, not_highNaN_both h, if_neg Bool.false_ne_true, if_pos hv] at hexec
  exact hexec

end Divide

/-- Settles O37: PDIV.S and PDIV.H, each with its two kinds of high lanes. -/
theorem scalarDivide : Obligations.ScalarDivide := by
  intro s rd rs1 rs2 rm m hrm himpl
  have hS := exec_pdivS s rd rs1 rs2 rm
  have hH := exec_pdivH s rd rs1 rs2 rm
  exact ⟨⟨packedDivide_boxesScalar hS hrm himpl, packedDivide_raises hS hrm himpl⟩,
    packedDivide_boxesScalar hH hrm himpl, packedDivide_raises hH hrm himpl⟩

/-! ### Scalar conversions (R203 to R208) -/

/-- A Binary64 value is its own low element. -/
theorem fmtLane_D_zero (v : Word) : fmtLane .D 0 v = v := by
  simp [fmtLane, lane]

section Convert

variable {i : Instr} {s : State} {src dst : Fmt} {rd rs1 : FReg} {rm : BitVec 3} {m : RMode}

theorem cvtToD_writesF (hexec : exec i s = cvtToD i src rd rs1 rm s) (hrm : s.rmMeaning rm = .narrow m) :
    let r := (numericsOf s.params).cvt .D src m (fmtLane src 0 (s.getF rs1))
    WritesF i s rd (fun v => v = r.1) r.2 := by
  rw [cvtToD, withRounding_narrow hrm] at hexec
  exact finishFp_writesF hexec rfl

theorem cvtFromD_boxesScalar (hexec : exec i s = cvtFromD i dst rd rs1 rm s) (hrm : s.rmMeaning rm = .narrow m) :
    BoxesScalar i dst ((numericsOf s.params).cvt dst .D m (s.getF rs1)) rd s := by
  rw [cvtFromD, withRounding_narrow hrm, State.cvtLane, fmtLane_D_zero] at hexec
  exact finishFp_boxesScalar hexec

end Convert

/-- Settles O47: three conversions to Binary64 and three from it. -/
theorem scalarConversions : Obligations.ScalarConversions := by
  intro s rd rs1 rm m hrm
  exact ⟨cvtToD_writesF (exec_fcvtDS s rd rs1 rm) hrm, cvtToD_writesF (exec_fcvtDH s rd rs1 rm) hrm,
    cvtToD_writesF (exec_fcvtDBf16 s rd rs1 rm) hrm, cvtFromD_boxesScalar (exec_fcvtSD s rd rs1 rm) hrm,
    cvtFromD_boxesScalar (exec_fcvtHD s rd rs1 rm) hrm, cvtFromD_boxesScalar (exec_fcvtBf16D s rd rs1 rm) hrm⟩

/-! ### Square roots without a packed unit (R231, R232) -/

section SquareRoot

variable {i : Instr} {s : State} {fmt : Fmt} {rd rs1 : FReg} {m : RMode} {x : XRm}

/-- What PSQRT does without a packed unit. -/
theorem sqrtBody_scalarOrEmulate (himpl : s.params.psqrtImpl = .scalarOrEmulate) :
    sqrtBody i fmt rd rs1 m s =
      if highNaN fmt (s.getF rs1) then
        s.finishFp rd (s.scalarSqrt fmt m (s.getF rs1)).1 (s.scalarSqrt fmt m (s.getF rs1)).2
      else if s.params.emulationVisible then emulate i s
      else s.finishFp rd (s.packedSqrt fmt m (s.getF rs1)).1 (s.packedSqrt fmt m (s.getF rs1)).2 := by
  simp only [sqrtBody, himpl]

/-- NaN high lanes are the mark of a scalar. -/
theorem sqrtBody_boxesScalar (hexec : exec i s = sqrtBody i fmt rd rs1 m s)
    (himpl : s.params.psqrtImpl = .scalarOrEmulate)
    (h : ∀ k, 1 ≤ k → k < lanesOf fmt → isNaN fmt (fmtLane fmt k (s.getF rs1)) = true) :
    BoxesScalar i fmt ((numericsOf s.params).sqrt fmt m (fmtLane fmt 0 (s.getF rs1))) rd s := by
  rw [sqrtBody_scalarOrEmulate himpl, if_pos (highNaN_iff.2 h)] at hexec
  exact finishFp_boxesScalar hexec

/-- Any other high lane is a packed operand, which the unit leaves to the emulator. -/
theorem sqrtBody_raises (hexec : exec i s = sqrtBody i fmt rd rs1 m s) (himpl : s.params.psqrtImpl = .scalarOrEmulate)
    (h : ∃ k, 1 ≤ k ∧ k < lanesOf fmt ∧ isNaN fmt (fmtLane fmt k (s.getF rs1)) = false)
    (hv : s.params.emulationVisible = true) : Raises i s (.emulationTrap (encode i)) := by
  rw [sqrtBody_scalarOrEmulate himpl, highNaN_eq_false_iff.2 h, if_neg Bool.false_ne_true, if_pos hv] at hexec
  exact hexec

/-- A legal pair is a packed operand, whatever its lanes hold (R232). -/
theorem sqrtX_raises (hexec : exec i s = sqrtX i fmt rd rs1 x s) (himpl : s.params.psqrtImpl = .scalarOrEmulate)
    (hv : s.params.emulationVisible = true) (hx : s.params.hasX128 = true) (hrd : rd.getLsbD 0 = false)
    (hrs1 : rs1.getLsbD 0 = false) : Raises i s (.emulationTrap (encode i)) := by
  have legal : (s.params.hasX128 && (evenReg rd && evenReg rs1)) = true := by
    rw [evenReg, evenReg, hx, hrd, hrs1]; rfl
  rw [sqrtX, requiring_true legal] at hexec
  simp only [himpl, hv, decide_true, Bool.and_self, if_true] at hexec
  exact hexec

end SquareRoot

/-- Lane 1 is the one high lane of a register of Binary32 lanes. -/
theorem highLanes_S {P : Nat → Prop} (h : P 1) (k : Nat) (h1 : 1 ≤ k) (hk : k < lanesOf .S) : P k := by
  have h2 : lanesOf .S = 2 := rfl
  rwa [(by omega : k = 1)]

/-- Settles O52: PSQRT.S and PSQRT.H, each with its two kinds of high lanes, and the two pair forms. -/
theorem scalarSquareRoot : Obligations.ScalarSquareRoot := by
  intro s rd rs1 rm m x hrm himpl
  have hS := (exec_psqrtS s rd rs1 rm).trans (withRoundingOrX_narrow hrm)
  have hH := (exec_psqrtH s rd rs1 rm).trans (withRounding_narrow hrm)
  refine ⟨⟨fun hn => ?_, fun hn hv => ?_⟩, ⟨fun hn => ?_, fun hn hv => ?_⟩, fun hv hx hrd hrs1 => ⟨?_, ?_⟩⟩
  · exact sqrtBody_boxesScalar hS himpl (highLanes_S hn)
  · exact sqrtBody_raises hS himpl ⟨1, Nat.le_refl 1, by decide, hn⟩ hv
  · exact sqrtBody_boxesScalar hH himpl hn
  · exact sqrtBody_raises hH himpl hn hv
  · exact sqrtX_raises (exec_psqrtxS s rd rs1 x) himpl hv hx hrd hrs1
  · exact sqrtX_raises (exec_psqrtxD s rd rs1 x) himpl hv hx hrd hrs1

/-! ### JALR (R294) -/

theorem execJalr_aligned {s : State} {rd rs1 : XReg} {imm : BitVec 12}
    (h : (s.jalrTarget rs1 imm).getLsbD 1 = false) :
    execJalr rd rs1 imm s = .next ((s.setX rd (s.pc + 4#64)).jump (s.jalrTarget rs1 imm)) := by
  simp only [execJalr, h, Bool.false_eq_true, if_false]

theorem execJalr_misaligned {s : State} {rd rs1 : XReg} {imm : BitVec 12}
    (h : (s.jalrTarget rs1 imm).getLsbD 1 = true) :
    execJalr rd rs1 imm s = raiseOut (.instructionAddressMisaligned (s.jalrTarget rs1 imm)) s := by
  simp only [execJalr, h, if_true]

/-- The register a link is written to, `x[0]` included (R23). -/
theorem State.getX_setX_self (s : State) (r : XReg) (v : Word) :
    (s.setX r v).getX r = if r = 0#5 then 0#64 else v := by
  split
  · next h => rw [h, State.setX_zero, State.getX_zero]
  · next h => exact s.getX_setX_same h v

/-- A write to an integer register and a jump leave the other registers, `frm`, the parameters and the trap alone. -/
theorem unchanged_setX_jump (s : State) (rd : XReg) (v t : Word) : Unchanged [] [rd] s ((s.setX rd v).jump t) := by
  refine ⟨fun r _ => by simp, fun r hr => ?_, by simp, by simp, by simp⟩
  rw [State.getX_jump, State.getX_setX_ne _ (List.ne_of_not_mem_cons hr)]

/-- Settles O60: the two cases of the target's bit 1. -/
theorem jalr : Obligations.Jalr := by
  intro s rd rs1 imm
  refine ⟨fun h => ⟨_, execJalr_aligned h, rfl, ?_, by simp, unchanged_setX_jump s rd _ _, fun a => by simp, by simp⟩,
    fun h => execJalr_misaligned h⟩
  rw [State.getX_jump, State.getX_setX_self]

end Sys2Proof.Machine
end


section
/-! PROOFS of the memory family, first part: the fetch (R45, R46, R54, R56), and what an instruction does to memory, to
the trap record and to the run (R40, R54, R300, R308). -/

namespace Sys2Proof.Machine

/-! ### The fetch, check by check (R45, R46, R54, R307) -/

theorem State.fetch_eq_misaligned {s : State} (ha : s.pc.extractLsb' 0 2 ≠ 0#2) : s.fetch = .misaligned := by
  simp [State.fetch, State.fetch.aligned4, ha]

theorem State.fetch_eq_accessFault {s : State} (ha : s.pc.extractLsb' 0 2 = 0#2) (hv : s.accessValid s.pc 4 = false) :
    s.fetch = .accessFault := by
  simp [State.fetch, State.fetch.aligned4, ha, hv]

theorem State.fetch_eq_storedByte {s : State} (ha : s.pc.extractLsb' 0 2 = 0#2) (hv : s.accessValid s.pc 4 = true)
    (hs : s.fetchUnstored = false) : s.fetch = .storedByte := by
  simp [State.fetch, State.fetch.aligned4, ha, hv, hs]

/-- The fetch is of unstored bytes when none of the four is on the list of stored ones (R54). -/
theorem State.fetchUnstored_iff {s : State} :
    s.fetchUnstored = true ↔ ∀ k, k < 4 → (byteAddr s.pc k).toNat ∉ s.stored := by
  simp [State.fetchUnstored, allBytes_iff]

/-! ### A running machine's step, by what the fetch finds (R56) -/

theorem stepRunning_misaligned {s : State} (h : s.fetch = .misaligned) :
    stepRunning s = raiseOut (.instructionAddressMisaligned s.pc) s := by
  simp only [stepRunning, h]

theorem stepRunning_accessFault {s : State} (h : s.fetch = .accessFault) :
    stepRunning s = raiseOut (.instructionAccessFault s.pc) s := by
  simp only [stepRunning, h]

theorem stepRunning_storedByte {s : State} (h : s.fetch = .storedByte) :
    stepRunning s = .refused (.fetchOfStoredByte s.pc) := by
  simp only [stepRunning, h]

theorem stepRunning_word {s : State} {w : InsnWord} (h : s.fetch = .word w) :
    stepRunning s = execDecoded (decode w) w s := by
  simp only [stepRunning, h]

/-- When the fetch passes its checks, the step runs what the word at `pc` decodes to. -/
theorem step_eq_execDecoded {s : State} (ht : s.trap = none) (hh : s.params.haltPc ≠ some s.pc)
    (ha : s.pc.extractLsb' 0 2 = 0#2) (hv : s.accessValid s.pc 4 = true) (hs : s.fetchUnstored = true) :
    step s = execDecoded (decode s.fetchWord) s.fetchWord s :=
  (step_eq_stepRunning ht hh).trans (stepRunning_word (State.fetch_eq_word ha hv hs))

/-- Settles O5: the first two checks of the fetch. -/
theorem fetchTraps : Obligations.FetchTraps := by
  intro s ht hh
  rw [step_eq_stepRunning ht hh]
  exact ⟨fun ha => stepRunning_misaligned (State.fetch_eq_misaligned ha), fun k hk ha hv =>
    stepRunning_accessFault (State.fetch_eq_accessFault ha (State.accessValid_eq_false hk hv))⟩

/-- Settles O4: the bytes at `pc` are those of the word fetched, and decode to what it decodes to. -/
theorem stepRunsDecoded : Obligations.StepRunsDecoded := by
  intro s i ht hh ha hv hs hd
  rw [State.fetchBytes_eq_wordBytes, decodeBytes_wordBytes] at hd
  rw [step_eq_execDecoded ht hh ha hv hs, hd]
  rfl

/-- Settles O6: the step goes by what the word decodes to, and by the last check of the fetch. -/
theorem stepOnOtherWords : Obligations.StepOnOtherWords := by
  intro s ht hh ha hv
  refine ⟨fun hs => ⟨fun why hd => ?_, fun hd => ?_⟩, fun k hk hstored => ?_, State.fetchUnstored_iff.2⟩
  · rw [step_eq_execDecoded ht hh ha hv hs, hd]
    rfl
  · rw [step_eq_execDecoded ht hh ha hv hs, hd]
    rfl
  · have hs : s.fetchUnstored = false := Bool.eq_false_iff.2 fun hu => State.fetchUnstored_iff.1 hu k hk hstored
    rw [step_eq_stepRunning ht hh, stepRunning_storedByte (State.fetch_eq_storedByte ha hv hs)]

/-! ### A loaded instruction word (R331) -/

/-- Reading the four bytes of a loaded word gives the word. -/
theorem State.memRead_loadWord (s : State) (a : Word) (w : InsnWord) : (s.loadWord a w).memRead a 4 = w.setWidth 64 := by
  refine eq_of_lanes (w := 8) (n := 8) (by omega) (by omega) fun k _ => ?_
  by_cases hk : k < 4
  · rw [lane_memRead _ _ (by omega) hk, State.readByte_loadWord _ _ _ _ hk]
  · rw [State.memRead, lane_joinLanes_high _ (by omega) (by omega)]
    apply BitVec.eq_of_getLsbD_eq
    intro i hi
    rw [getLsbD_lane, BitVec.getLsbD_setWidth, BitVec.getLsbD_of_ge w _ (by omega)]
    simp

/-- The bytes of a loaded word are no stored ones. -/
theorem State.not_mem_loadWord_stored (s : State) (a : Word) (w : InsnWord) {k : Nat} (hk : k < 4) :
    (byteAddr a k).toNat ∉ (s.loadWord a w).stored := by
  simp only [State.loadWord, List.mem_filter, not_and]
  intro _
  rcases (by omega : k = 0 ∨ k = 1 ∨ k = 2 ∨ k = 3) with rfl | rfl | rfl | rfl <;> simp

theorem State.withFetchWord_readByte (s : State) (n w : Nat) (a : Word) :
    (s.withFetchWord n w).readByte a = (s.loadWord s.pc (BitVec.ofNat 32 (w % 2 ^ n))).readByte a := rfl

theorem State.withFetchWord_fetchUnstored (s : State) (n w : Nat) : (s.withFetchWord n w).fetchUnstored = true :=
  State.fetchUnstored_iff.2 fun _ hk => s.not_mem_loadWord_stored s.pc (BitVec.ofNat 32 (w % 2 ^ n)) hk

/-- The machine is not at its HALT_PC. -/
theorem State.withFetchWord_haltPc (s : State) (n w : Nat) :
    (s.withFetchWord n w).params.haltPc ≠ some (s.withFetchWord n w).pc := by
  show (if s.params.haltPc = some s.pc then none else s.params.haltPc) ≠ some s.pc
  split
  · simp
  · assumption

/-- The word fetched is the word loaded. -/
theorem State.withFetchWord_fetchWord (s : State) (w : InsnWord) : (s.withFetchWord 32 w.toNat).fetchWord = w := by
  have hw : BitVec.ofNat 32 (w.toNat % 2 ^ 32) = w := by
    rw [Nat.mod_eq_of_lt w.isLt, BitVec.ofNat_toNat, BitVec.setWidth_eq]
  have hread : (s.withFetchWord 32 w.toNat).memRead s.pc 4 = w.setWidth 64 := by
    rw [← s.memRead_loadWord s.pc w, State.memRead_congr fun k _ => s.withFetchWord_readByte 32 w.toNat _, hw]
  show ((s.withFetchWord 32 w.toNat).memRead s.pc 4).setWidth 32 = w
  rw [hread]
  simp

/-- Settles O10: the loaded word meets every check of the fetch. -/
theorem loadedWordRuns : Obligations.LoadedWordRuns := by
  intro s w ha hv
  have hword := s.withFetchWord_fetchWord w
  have hstep := step_eq_execDecoded (s := s.withFetchWord 32 w.toNat) rfl (s.withFetchWord_haltPc 32 w.toNat) ha hv
    (s.withFetchWord_fetchUnstored 32 w.toNat)
  rw [hword] at hstep
  exact ⟨hword, hstep⟩

/-! ### What an instruction does to memory and to the run (R40, R54) -/

/-- An instruction that is no store leaves memory alone. -/
theorem Effect.memUnchanged {i : Instr} {s t : State} {r : Result} (h : Effect i s r) (hr : r = .next t)
    (hi : ¬ Instr.IsStore i) : MemUnchanged s t := by
  cases h with
  | raise | fp | f | pairFp | pair | cmp | x | jump => cases hr; exact ⟨fun a => by simp, by simp⟩
  | store _ _ _ hs | store2 _ _ _ hs => exact absurd hs hi
  | storeRaise _ _ _ hs => exact absurd hs.isStore hi
  | refuse => cases hr

/-- Settles O17, from the list of everything an instruction can do. -/
theorem onlyStoresWriteMemory : Obligations.OnlyStoresWriteMemory := by
  intro i s t hexec hi
  refine (exec_effect i s).memUnchanged hexec ?_
  rintro ⟨rs1, imm, rs2, hstore⟩
  obtain ⟨hh, hw, hd, hx⟩ := hi rs1 imm rs2
  rcases hstore with h | h | h | h
  · exact hh h
  · exact hw h
  · exact hd h
  · exact hx h

/-- An access that does not avoid the program text has a byte in it (R54). -/
theorem State.exists_inText {s : State} {ea : Word} {n : Nat} (h : s.avoidsText ea n = false) :
    ∃ k, k < n ∧ inText s.params (byteAddr ea k) = true := by
  by_contra hno
  have havoid : s.avoidsText ea n = true := allBytes_iff.2 fun k hk => by
    rw [Bool.not_eq_true', Bool.eq_false_iff]
    exact fun hin => hno ⟨k, hk, hin⟩
  rw [h] at havoid
  cases havoid

/-- An instruction answers a next state, or is a store that does not avoid the program text. -/
theorem Effect.next_or_refused {i : Instr} {s : State} {r : Result} (h : Effect i s r) :
    (∃ t, r = .next t) ∨
      ∃ ea n, Instr.StoresAt i s ea n ∧ s.avoidsText ea n = false ∧ r = .refused (.storeToText ea) := by
  cases h with
  | refuse ea n hi ht => exact .inr ⟨ea, n, hi, ht, rfl⟩
  | _ => exact .inl ⟨_, rfl⟩

/-- Settles O18, from the list of everything an instruction can do. -/
theorem execGoesOn : Obligations.ExecGoesOn := by
  intro i s
  rcases (exec_effect i s).next_or_refused with h | ⟨_, n, ⟨rs1, imm, rs2, rfl, hi⟩, htext, href⟩
  · exact .inl h
  · exact .inr ⟨rs1, imm, rs2, n, hi, href, State.exists_inText htext⟩

/-! ### Precise traps (R48, R300, R308) -/

/-- What a running machine's instruction leaves when it raises: the state as it was with the trap recorded, or it is a
pair store with its access fault. -/
theorem Effect.trapped_cases {i : Instr} {s t : State} {r : Result} {e : Trap} (h : Effect i s r) (hr : r = .next t)
    (hs : s.trap = none) (ht : t.trap = some e) :
    e.pc = s.pc ∧ (t = { s with trap := some e } ∨
      ∃ rs1 imm rs2, i = .fsx rs1 imm rs2 ∧ e.cause = .storeAccessFault (s.ea rs1 imm)) := by
  cases h with
  | raise c => cases hr; cases ht; exact ⟨rfl, .inl rfl⟩
  | storeRaise ea a v hi =>
    obtain ⟨rs1, imm, rs2, rfl, ⟨_, hn⟩ | ⟨_, hn⟩ | ⟨_, hn⟩ | ⟨hfsx, _⟩⟩ := hi
    · cases hn
    · cases hn
    · cases hn
    · cases hr; cases ht; exact ⟨by simp, .inr ⟨rs1, imm, rs2, hfsx, rfl⟩⟩
  | fp | f | pairFp | pair | cmp | x | jump | store | store2 => cases hr; simp [hs] at ht
  | refuse => cases hr

/-- Taking an exception stores nothing. -/
theorem atMostHalfStored_raise (s : State) (ea lo hi : Word) (e : Cause) : AtMostHalfStored s ea lo hi (s.raise e) :=
  ⟨rfl, rfl, rfl, rfl, rfl, rfl, .inl ⟨fun _ => rfl, rfl⟩⟩

/-- A pair store that raises has stored at most a half of its pair (R48). -/
theorem atMostHalfStored_of_fsx_trapped {s t : State} {e : Trap} {rs1 : XReg} {imm : BitVec 12} {rs2 : FReg}
    (hs : s.trap = none) (hexec : exec (.fsx rs1 imm rs2) s = .next t) (ht : t.trap = some e) :
    AtMostHalfStored s (s.ea rs1 imm) (s.getF rs2) (s.getF (highReg rs2)) t := by
  have hfsx := hexec
  rw [exec_fsx, execFsx] at hfsx
  cases hc : s.params.hasFsx && evenReg rs2 with
  | false =>
    rw [requiring_false hc] at hfsx
    cases hfsx
    exact atMostHalfStored_raise ..
  | true =>
    rw [requiring_true hc] at hfsx
    rcases checkedStore_cases with h | ⟨_, h⟩ | ⟨_, h⟩ | h <;> rw [h] at hfsx
    · cases hfsx
      exact atMostHalfStored_raise ..
    · obtain ⟨u, hu, _, hhalf⟩ := pairStoreFault_raises (hexec.trans hfsx.symm)
      cases hexec.symm.trans hu
      exact hhalf
    · cases hfsx
    · cases hfsx
      simp [hs] at ht

/-- Settles O15, from the list of everything an instruction can do, and for the FSX from its checks. -/
theorem trapsArePrecise : Obligations.TrapsArePrecise := by
  intro i s t e hs hexec ht
  obtain ⟨hpc, hcases⟩ := (exec_effect i s).trapped_cases hexec hs ht
  refine ⟨hpc, by simp only [step, ht], fun hno => ?_, fun rs1 imm rs2 hi _ => ?_⟩
  · exact hcases.resolve_right fun ⟨rs1, imm, rs2, h⟩ => hno rs1 imm rs2 h
  · subst hi
    exact atMostHalfStored_of_fsx_trapped hs hexec ht

end Sys2Proof.Machine
end

section
/-! PROOFS of the memory family, second part: the bytes of memory (R40, R41, R49, R51), and the loads and stores
(R42 to R54, R100 to R109). -/

namespace Sys2Proof.Machine

/-- Settles O19, from the laws of one store and of the canonical form. -/
theorem memoryAlgebra : Obligations.MemoryAlgebra := by
  refine ⟨fun s ea v n hn hwf => ⟨s.memWrite_wf hwf, fun _ => s.readByte_memWrite_out ea v, fun k hk => ?_⟩,
    fun _ _ => Memory.ext_of_wfFrom⟩
  rw [lane_memRead _ _ hn hk, s.readByte_memWrite_in ea v hk (by omega)]

/-! ### Loads and stores of one register, by their checks (R44, R46, R54) -/

section One

variable {i : Instr} {s : State} {n : Nat} {fill : Word → Word} {r : FReg} {rs1 : XReg} {imm : BitVec 12}

theorem aligned_eq_false_iff {ea : Word} : aligned ea n = false ↔ ea.toNat % n ≠ 0 := by simp [aligned]

theorem loadOne_passes (h : exec i s = loadOne n fill r rs1 imm s)
    (ha : s.params.misalignedOk = true ∨ (s.ea rs1 imm).toNat % n = 0) (hv : s.accessValid (s.ea rs1 imm) n = true) :
    exec i s = s.finishF r (fill (s.memRead (s.ea rs1 imm) n)) :=
  h.trans (checkedLoad_passes (ha.imp_right aligned_iff.2) hv)

theorem loadOne_misaligned (h : exec i s = loadOne n fill r rs1 imm s) (hm : s.params.misalignedOk = false)
    (ha : (s.ea rs1 imm).toNat % n ≠ 0) : Raises i s (.loadAddressMisaligned (s.ea rs1 imm)) :=
  h.trans (checkedLoad_misaligned hm (aligned_eq_false_iff.2 ha))

theorem loadOne_invalid (h : exec i s = loadOne n fill r rs1 imm s)
    (ha : s.params.misalignedOk = true ∨ (s.ea rs1 imm).toNat % n = 0) (hv : s.accessValid (s.ea rs1 imm) n = false) :
    Raises i s (.loadAccessFault (s.ea rs1 imm)) :=
  h.trans (checkedLoad_invalid (ha.imp_right aligned_iff.2) hv)

theorem storeOne_passes (h : exec i s = storeOne n rs1 imm r s)
    (ha : s.params.misalignedOk = true ∨ (s.ea rs1 imm).toNat % n = 0) (hv : s.accessValid (s.ea rs1 imm) n = true)
    (ht : s.avoidsText (s.ea rs1 imm) n = true) :
    exec i s = .next (s.memWrite (s.ea rs1 imm) (s.getF r) n).advance :=
  h.trans (checkedStore_passes (ha.imp_right aligned_iff.2) hv ht)

theorem storeOne_misaligned (h : exec i s = storeOne n rs1 imm r s) (hm : s.params.misalignedOk = false)
    (ha : (s.ea rs1 imm).toNat % n ≠ 0) : Raises i s (.storeAddressMisaligned (s.ea rs1 imm)) :=
  h.trans (checkedStore_misaligned hm (aligned_eq_false_iff.2 ha))

theorem storeOne_invalid (h : exec i s = storeOne n rs1 imm r s)
    (ha : s.params.misalignedOk = true ∨ (s.ea rs1 imm).toNat % n = 0) (hv : s.accessValid (s.ea rs1 imm) n = false) :
    Raises i s (.storeAccessFault (s.ea rs1 imm)) :=
  h.trans (checkedStore_invalid (ha.imp_right aligned_iff.2) hv)

theorem storeOne_text (h : exec i s = storeOne n rs1 imm r s)
    (ha : s.params.misalignedOk = true ∨ (s.ea rs1 imm).toNat % n = 0) (hv : s.accessValid (s.ea rs1 imm) n = true)
    (ht : s.avoidsText (s.ea rs1 imm) n = false) : exec i s = .refused (.storeToText (s.ea rs1 imm)) :=
  h.trans (checkedStore_text (ha.imp_right aligned_iff.2) hv ht)

end One

/-! ### Loads and stores of a pair, by their checks (R43, R46, R54, R80) -/

section Pair

variable {s : State} {r : FReg} {rs1 : XReg} {imm : BitVec 12}

theorem aligned_eight_iff {ea : Word} : aligned ea 8 = true ↔ ea.extractLsb' 0 3 = 0#3 :=
  aligned_iff.trans low3_iff.symm

theorem aligned_eight_eq_false {ea : Word} (h : ea.extractLsb' 0 3 ≠ 0#3) : aligned ea 8 = false :=
  Bool.eq_false_iff.2 (h ∘ aligned_eight_iff.1)

/-- The feature is there and the pair operand is even. -/
theorem feature_and_even {feature : Bool} (hf : feature = true) (hr : r.getLsbD 0 = false) :
    (feature && evenReg r) = true := by
  rw [hf, evenReg, hr]; rfl

/-- What FLX does with a legal pair. -/
theorem execFlx_legal (hf : s.params.hasFlx = true) (hr : r.getLsbD 0 = false) :
    exec (.flx r rs1 imm) s = checkedLoad (s.ea rs1 imm) 16 8 false s
      (.next (s.setPair r (s.memRead (s.ea rs1 imm) 8) (s.memRead (byteAddr (s.ea rs1 imm) 8) 8)).advance) :=
  requiring_true (feature_and_even hf hr)

/-- What FSX does with a legal pair. -/
theorem execFsx_legal (hf : s.params.hasFsx = true) (hr : r.getLsbD 0 = false) :
    exec (.fsx rs1 imm r) s = checkedStore (s.ea rs1 imm) 16 8 false s
      (pairStoreFault (s.ea rs1 imm) (s.getF r) (s.getF (highReg r)) s)
      (.next ((s.memWrite (s.ea rs1 imm) (s.getF r) 8).memWrite (byteAddr (s.ea rs1 imm) 8)
        (s.getF (highReg r)) 8).advance) :=
  requiring_true (feature_and_even hf hr)

theorem execFlx_passes (hf : s.params.hasFlx = true) (hr : r.getLsbD 0 = false)
    (ha : (s.ea rs1 imm).extractLsb' 0 3 = 0#3) (hv : s.accessValid (s.ea rs1 imm) 16 = true) :
    exec (.flx r rs1 imm) s =
      .next (s.setPair r (s.memRead (s.ea rs1 imm) 8) (s.memRead (byteAddr (s.ea rs1 imm) 8) 8)).advance :=
  (execFlx_legal hf hr).trans (checkedLoad_passes (.inr (aligned_eight_iff.2 ha)) hv)

theorem execFsx_passes (hf : s.params.hasFsx = true) (hr : r.getLsbD 0 = false)
    (ha : (s.ea rs1 imm).extractLsb' 0 3 = 0#3) (hv : s.accessValid (s.ea rs1 imm) 16 = true)
    (ht : s.avoidsText (s.ea rs1 imm) 16 = true) :
    exec (.fsx rs1 imm r) s = .next ((s.memWrite (s.ea rs1 imm) (s.getF r) 8).memWrite (byteAddr (s.ea rs1 imm) 8)
      (s.getF (highReg r)) 8).advance :=
  (execFsx_legal hf hr).trans (checkedStore_passes (.inr (aligned_eight_iff.2 ha)) hv ht)

end Pair

/-! ### The stops of loads and stores (R43, R44, R46, R54) -/

/-- Settles O24: FLX and FSX check alignment to 8 only, before all else about their address. -/
theorem pairAlignment : Obligations.PairAlignment := by
  intro s r rs1 imm ea hr
  refine ⟨fun hf ha => ?_, fun hf ha => ?_, fun hf ha hv => ?_, fun hf ha hv ht => ?_⟩
  · exact (execFlx_legal hf hr).trans (checkedLoad_misaligned rfl (aligned_eight_eq_false ha))
  · exact (execFsx_legal hf hr).trans (checkedStore_misaligned rfl (aligned_eight_eq_false ha))
  · exact ⟨_, execFlx_passes hf hr ha hv, by simp⟩
  · exact ⟨_, execFsx_passes hf hr ha hv ht, by simp⟩

/-- Settles O25: the first check of the six accesses to one register. -/
theorem naturalAlignment : Obligations.NaturalAlignment := by
  intro s r rs1 imm hm
  refine ⟨fun ha => ⟨?_, ?_⟩, fun ha => ⟨?_, ?_⟩, fun ha => ⟨?_, ?_⟩⟩
  · exact loadOne_misaligned (exec_flh ..) hm ha
  · exact storeOne_misaligned (exec_fsh ..) hm ha
  · exact loadOne_misaligned (exec_flw ..) hm ha
  · exact storeOne_misaligned (exec_fsw ..) hm ha
  · exact loadOne_misaligned (exec_fld ..) hm ha
  · exact storeOne_misaligned (exec_fsd ..) hm ha

/-- Settles O26: the second check of each access. -/
theorem accessFaults : Obligations.AccessFaults := by
  intro s r rs1 imm k ea hk
  have invalid {n : Nat} (hkn : k < n) : s.accessValid ea n = false := State.accessValid_eq_false hkn hk
  refine ⟨fun hkn ha => ?_, fun hkn ha => ?_, fun hkn ha => ?_, fun hkn ha hr => ⟨fun hf => ?_, fun hf => ?_⟩⟩
  · exact ⟨loadOne_invalid (exec_flh ..) ha (invalid hkn), storeOne_invalid (exec_fsh ..) ha (invalid hkn)⟩
  · exact ⟨loadOne_invalid (exec_flw ..) ha (invalid hkn), storeOne_invalid (exec_fsw ..) ha (invalid hkn)⟩
  · exact ⟨loadOne_invalid (exec_fld ..) ha (invalid hkn), storeOne_invalid (exec_fsd ..) ha (invalid hkn)⟩
  · exact (execFlx_legal hf hr).trans (checkedLoad_invalid (.inr (aligned_eight_iff.2 ha)) (invalid hkn))
  · exact pairStoreFault_raises
      ((execFsx_legal hf hr).trans (checkedStore_invalid (.inr (aligned_eight_iff.2 ha)) (invalid hkn)))

/-- Settles O27: the last check of each store. -/
theorem storesToTextAreRefused : Obligations.StoresToTextAreRefused := by
  intro s r rs1 imm k ea hk
  have touches {n : Nat} (hkn : k < n) : s.avoidsText ea n = false := State.avoidsText_eq_false hkn hk
  refine ⟨fun hkn ha hv => ?_, fun hkn ha hv => ?_, fun hkn ha hv => ?_, fun hkn ha hv hr hf => ?_⟩
  · exact storeOne_text (exec_fsh ..) ha hv (touches hkn)
  · exact storeOne_text (exec_fsw ..) ha hv (touches hkn)
  · exact storeOne_text (exec_fsd ..) ha hv (touches hkn)
  · exact (execFsx_legal hf hr).trans (checkedStore_text (.inr (aligned_eight_iff.2 ha)) hv (touches hkn))

/-! ### What is loaded (R41, R42, R101 to R104) -/

/-- A NaN-box is ones above its element (R30). -/
theorem nanbox_eq_append {m w : Nat} (h : m + w = 64) (e : BitVec w) :
    nanbox e = (BitVec.allOnes m ++ e).cast h := by
  apply BitVec.eq_of_getLsbD_eq
  intro i hi
  rw [BitVec.getLsbD_cast, BitVec.getLsbD_append]
  split
  · next hiw => simp [nanbox, hiw, hi]
  · next hiw =>
    rw [getLsbD_nanbox_high e (by omega) hi, BitVec.getLsbD_allOnes, decide_eq_true (by omega)]

/-- The bytes of a load, the lowest address lowest (R41). -/
theorem lane_memRead_succ (s : State) (ea : Word) {n : Nat} (hn : n < 8) :
    lane (8 * n + 8) 0 (s.memRead ea (n + 1)) = lane (8 * n) 0 (s.memRead (byteAddr ea 1) n) ++ s.readByte ea := by
  apply BitVec.eq_of_getLsbD_eq
  intro i hi
  rw [getLsbD_lane, decide_eq_true hi, Bool.true_and, Nat.mul_zero, Nat.zero_add, BitVec.getLsbD_append]
  split
  · next h8 => simpa using s.getLsbD_memRead ea (j := 0) (by omega) (by omega) h8
  · next h8 =>
    obtain ⟨j, k, hk, rfl⟩ : ∃ j k, k < 8 ∧ i = 8 * (j + 1) + k := ⟨i / 8 - 1, i % 8, by omega, by omega⟩
    have hsub : 8 * (j + 1) + k - 8 = 8 * j + k := by omega
    rw [hsub, s.getLsbD_memRead ea (by omega) (by omega) hk, getLsbD_lane, decide_eq_true (by omega), Bool.true_and,
      Nat.mul_zero, Nat.zero_add, s.getLsbD_memRead _ (by omega) (by omega) hk, byteAddr_add, Nat.add_comm 1 j]

/-- The two bytes of a halfword (R41). -/
theorem lane_memRead_two (s : State) (ea : Word) :
    lane 16 0 (s.memRead ea 2) = s.readByte (byteAddr ea 1) ++ s.readByte ea := by
  refine (lane_memRead_succ s ea (n := 1) (by omega)).trans ?_
  rw [lane_memRead s (byteAddr ea 1) (n := 1) (by omega) (by omega), byteAddr_zero]

/-- The four bytes of a word (R41). -/
theorem lane_memRead_four (s : State) (ea : Word) :
    lane 32 0 (s.memRead ea 4) =
      s.readByte (byteAddr ea 3) ++ s.readByte (byteAddr ea 2) ++ s.readByte (byteAddr ea 1) ++ s.readByte ea := by
  have three := lane_memRead_succ s (byteAddr ea 1) (n := 2) (by omega)
  have two := lane_memRead_two s (byteAddr ea 2)
  rw [byteAddr_add] at three two
  rw [← two]
  exact (lane_memRead_succ s ea (n := 3) (by omega)).trans (congrArg (· ++ s.readByte ea) three)

/-- Settles O20: the loads pass their checks and finish with the bytes read. -/
theorem scalarLoads : Obligations.ScalarLoads := by
  intro s rd rs1 imm ea b
  have b0 : b 0 = s.readByte ea := congrArg s.readByte (byteAddr_zero ea)
  refine ⟨fun ha hv => ?_, fun ha hv => ?_, fun ha hv => ?_⟩
  · refine finishF_writesF (loadOne_passes (exec_flh ..) ha hv) ?_
    rw [b0, lane_memRead_two]
    exact nanbox_eq_append rfl _
  · refine finishF_writesF (loadOne_passes (exec_flw ..) ha hv) ?_
    rw [b0, lane_memRead_four]
    exact nanbox_eq_append rfl _
  · exact finishF_writesF (loadOne_passes (exec_fld ..) ha hv) fun k hk => lane_memRead s ea (by omega) hk

/-- Settles O21: FLX passes its checks and finishes with the two doublewords read. -/
theorem pairLoad : Obligations.PairLoad := by
  intro s rd rs1 imm ea hf hr ha hv
  refine setPair_writesPair (execFlx_passes hf hr ha hv) (fun k hk => lane_memRead s ea (by omega) hk) fun k hk => ?_
  rw [lane_memRead s _ (by omega) hk, byteAddr_add]

/-! ### What is stored (R41, R42, R105 to R108) -/

/-- Settles O22: the stores pass their checks and finish with the bytes written. -/
theorem scalarStores : Obligations.ScalarStores := by
  intro s rs1 imm rs2
  refine ⟨fun ha hv ht => ?_, fun ha hv ht => ?_, fun ha hv ht => ?_⟩
  · exact memWrite_storesBytes (by omega) (storeOne_passes (exec_fsh ..) ha hv ht)
  · exact memWrite_storesBytes (by omega) (storeOne_passes (exec_fsw ..) ha hv ht)
  · exact memWrite_storesBytes (by omega) (storeOne_passes (exec_fsd ..) ha hv ht)

/-- Settles O23: FSX passes its checks and finishes with the two doublewords written. -/
theorem pairStore : Obligations.PairStore := fun _ _ _ _ hf hr ha hv ht =>
  memWrite_pair_storesBytes (execFsx_passes hf hr ha hv ht)

end Sys2Proof.Machine
end

section
/-! PROOFS of the memory family, third part: what the accesses of one run make of each other, a store and its load (R49),
and a pair access and two accesses (R50, R109). -/

namespace Sys2Proof.Machine

/-! ### Instructions that complete -/

section Completed

variable {s t : State} {ea : Word} {n al : Nat} {b : Bool} {f k : Result}

/-- An instruction that raises does not complete. -/
theorem raiseOut_not_completed {c : Cause} (h : raiseOut c s = .next t) : t.trap ≠ none := by
  cases h
  simp

/-- A load that completes has passed its checks. -/
theorem checkedLoad_completed (h : checkedLoad ea n al b s k = .next t) (ht : t.trap = none) :
    (b = true ∨ aligned ea al = true) ∧ s.accessValid ea n = true ∧ k = .next t := by
  by_cases ha : b = true ∨ aligned ea al = true
  · cases hv : s.accessValid ea n with
    | true => exact ⟨ha, rfl, (checkedLoad_passes ha hv).symm.trans h⟩
    | false => exact absurd ht (raiseOut_not_completed ((checkedLoad_invalid ha hv).symm.trans h))
  · obtain ⟨hb, hal⟩ : b = false ∧ aligned ea al = false := by simpa using ha
    exact absurd ht (raiseOut_not_completed ((checkedLoad_misaligned hb hal).symm.trans h))

/-- A store that completes has passed its checks. -/
theorem checkedStore_completed (h : checkedStore ea n al b s f k = .next t) (ht : t.trap = none)
    (hf : f ≠ .next t) :
    (b = true ∨ aligned ea al = true) ∧ s.accessValid ea n = true ∧ s.avoidsText ea n = true ∧ k = .next t := by
  by_cases ha : b = true ∨ aligned ea al = true
  · cases hv : s.accessValid ea n with
    | true =>
      cases htext : s.avoidsText ea n with
      | true => exact ⟨ha, rfl, rfl, (checkedStore_passes ha hv htext).symm.trans h⟩
      | false => cases (checkedStore_text ha hv htext).symm.trans h
    | false => exact absurd ((checkedStore_invalid ha hv).symm.trans h) hf
  · obtain ⟨hb, hal⟩ : b = false ∧ aligned ea al = false := by simpa using ha
    exact absurd ht (raiseOut_not_completed ((checkedStore_misaligned hb hal).symm.trans h))

theorem requiring_completed {c : Bool} {i : Instr} (h : requiring c i s k = .next t) (ht : t.trap = none) :
    k = .next t := by
  cases hc : c with
  | true => exact (requiring_true hc).symm.trans h
  | false => exact absurd ht (raiseOut_not_completed ((requiring_false hc).symm.trans h))

end Completed

/-! ### Addresses of two accesses -/

theorem State.ea_congr {s t : State} (h : t.x = s.x) (rs1 : XReg) (imm : BitVec 12) : t.ea rs1 imm = s.ea rs1 imm := by
  rw [State.ea, State.ea, State.getX_congr h]

theorem State.accessValid_congr {s t : State} (h : t.params = s.params) (ea : Word) (n : Nat) :
    t.accessValid ea n = s.accessValid ea n := by
  rw [State.accessValid, State.accessValid, h]

theorem State.avoidsText_congr {s t : State} (h : t.params = s.params) (ea : Word) (n : Nat) :
    t.avoidsText ea n = s.avoidsText ea n := by
  rw [State.avoidsText, State.avoidsText, h]

/-- A displacement that is 8 more gives the address of the upper half. -/
theorem State.ea_add_eight (s : State) (rs1 : XReg) {imm imm' : BitVec 12}
    (h : imm'.signExtend 64 = imm.signExtend 64 + 8#64) : s.ea rs1 imm' = byteAddr (s.ea rs1 imm) 8 := by
  rw [State.ea, h, ← BitVec.add_assoc]
  rfl

/-- What holds of every byte of an access holds of the bytes of its upper half. -/
theorem allBytes_upper {P : Word → Bool} {ea : Word} {m n : Nat} (h : allBytes P ea (m + n) = true) :
    allBytes P (byteAddr ea m) n = true :=
  allBytes_iff.2 fun k hk => by
    rw [byteAddr_add]
    exact allBytes_iff.1 h (m + k) (by omega)

theorem aligned_upper {ea : Word} (h : aligned ea 8 = true) : aligned (byteAddr ea 8) 8 = true := by
  rw [aligned_iff] at h ⊢
  rw [byteAddr, BitVec.toNat_add, BitVec.toNat_ofNat]
  omega

/-! ### A store and its load (R49) -/

/-- What an FSD that completes has done. -/
theorem execFsd_completed {s t : State} {rs1 : XReg} {imm : BitVec 12} {r : FReg}
    (h : exec (.fsd rs1 imm r) s = .next t) (ht : t.trap = none) :
    (s.params.misalignedOk = true ∨ (s.ea rs1 imm).toNat % 8 = 0) ∧ s.accessValid (s.ea rs1 imm) 8 = true ∧
      t = (s.memWrite (s.ea rs1 imm) (s.getF r) 8).advance := by
  rw [exec_fsd, storeOne] at h
  obtain ⟨ha, hv, _, hk⟩ := checkedStore_completed h ht fun hf => raiseOut_not_completed hf ht
  cases hk
  exact ⟨ha.imp_right aligned_iff.1, hv, rfl⟩

/-- Settles O28: the store has passed the checks of the load, which reads the bytes the store wrote. -/
theorem storeLoadRoundTrip : Obligations.StoreLoadRoundTrip := by
  intro s t rd rs2 rs1 imm hexec htrap hs
  obtain ⟨ha, hv, rfl⟩ := execFsd_completed hexec (htrap.trans hs)
  set u := (s.memWrite (s.ea rs1 imm) (s.getF rs2) 8).advance with hu
  have hparams : u.params = s.params := by simp [hu]
  have hea : u.ea rs1 imm = s.ea rs1 imm := State.ea_congr (by simp [hu]) rs1 imm
  refine finishF_writesF (loadOne_passes (exec_fld ..) (by rwa [hparams, hea]) ?_) ?_
  · rwa [hea, State.accessValid_congr hparams]
  · rw [hea, State.memRead_congr fun k _ => State.readByte_advance _ _]
    exact memRead_memWrite s (s.ea rs1 imm) (s.getF rs2)

/-! ### A pair access and two accesses (R50, R109) -/

/-- What an FLX that completes has done. -/
theorem execFlx_completed {s t : State} {rs1 : XReg} {imm : BitVec 12} {r : FReg}
    (h : exec (.flx r rs1 imm) s = .next t) (ht : t.trap = none) :
    aligned (s.ea rs1 imm) 8 = true ∧ s.accessValid (s.ea rs1 imm) 16 = true ∧
      t = (s.setPair r (s.memRead (s.ea rs1 imm) 8) (s.memRead (byteAddr (s.ea rs1 imm) 8) 8)).advance := by
  rw [exec_flx, execFlx] at h
  obtain ⟨ha, hv, hk⟩ := checkedLoad_completed (requiring_completed h ht) ht
  cases hk
  exact ⟨ha.resolve_left Bool.false_ne_true, hv, rfl⟩

theorem pairStoreFault_not_completed {s t : State} {ea lo hi : Word} (h : pairStoreFault ea lo hi s = .next t) :
    t.trap ≠ none := raiseOut_not_completed h

/-- What an FSX that completes has done. -/
theorem execFsx_completed {s t : State} {rs1 : XReg} {imm : BitVec 12} {r : FReg}
    (h : exec (.fsx rs1 imm r) s = .next t) (ht : t.trap = none) :
    aligned (s.ea rs1 imm) 8 = true ∧ s.accessValid (s.ea rs1 imm) 16 = true ∧
      s.avoidsText (s.ea rs1 imm) 16 = true ∧
      t = ((s.memWrite (s.ea rs1 imm) (s.getF r) 8).memWrite (byteAddr (s.ea rs1 imm) 8)
        (s.getF (highReg r)) 8).advance := by
  rw [exec_fsx, execFsx] at h
  obtain ⟨ha, hv, htext, hk⟩ :=
    checkedStore_completed (requiring_completed h ht) ht fun hf => pairStoreFault_not_completed hf ht
  cases hk
  exact ⟨ha.resolve_left Bool.false_ne_true, hv, htext, rfl⟩

/-- An aligned FLD of valid bytes, at an address that is computed elsewhere. -/
theorem execFld_at {s : State} {r : FReg} {rs1 : XReg} {imm : BitVec 12} {ea : Word} (hea : s.ea rs1 imm = ea)
    (ha : aligned ea 8 = true) (hv : s.accessValid ea 8 = true) :
    exec (.fld r rs1 imm) s = s.finishF r (s.memRead ea 8) := by
  subst hea
  exact loadOne_passes (fill := fun v => v) (exec_fld s r rs1 imm) (.inr (aligned_iff.1 ha)) hv

/-- An aligned FSD to valid bytes that are no program text, at an address that is computed elsewhere. -/
theorem execFsd_at {s : State} {r : FReg} {rs1 : XReg} {imm : BitVec 12} {ea : Word} (hea : s.ea rs1 imm = ea)
    (ha : aligned ea 8 = true) (hv : s.accessValid ea 8 = true) (ht : s.avoidsText ea 8 = true) :
    exec (.fsd rs1 imm r) s = .next (s.memWrite ea (s.getF r) 8).advance := by
  subst hea
  exact storeOne_passes (exec_fsd s rs1 imm r) (.inr (aligned_iff.1 ha)) hv ht

/-- What a store changes of memory does not depend on the registers. -/
theorem State.memWrite_mem_congr {s t : State} (h : t.mem = s.mem) (ea v : Word) (n : Nat) :
    (t.memWrite ea v n).mem = (s.memWrite ea v n).mem := by
  induction n with
  | zero => exact h
  | succ n ih => rw [State.memWrite, State.memWrite, State.writeByte_mem, State.writeByte_mem, ih]

section TwoAccesses

variable {s t : State} {r : FReg} {rs1 : XReg} {imm imm' : BitVec 12}

/-- FLX leaves what FLD of the even and then FLD of the odd register leave: the first changes no byte the second reads. -/
theorem execFlx_eq_two_fld (h : exec (.flx r rs1 imm) s = .next t) (ht : t.trap = none)
    (himm : imm'.signExtend 64 = imm.signExtend 64 + 8#64) :
    ∃ u v, exec (.fld r rs1 imm) s = .next u ∧ exec (.fld (highReg r) rs1 imm') u = .next v ∧
      v.f = t.f ∧ v.x = t.x ∧ v.mem = t.mem ∧ v.fflags = t.fflags := by
  obtain ⟨ha, hv, rfl⟩ := execFlx_completed h ht
  set u := (s.setF r (s.memRead (s.ea rs1 imm) 8)).advance with hu
  have hea : u.ea rs1 imm' = byteAddr (s.ea rs1 imm) 8 :=
    (State.ea_congr (by simp [hu]) rs1 imm').trans (s.ea_add_eight rs1 himm)
  have hparams : u.params = s.params := by simp [hu]
  have hvu : u.accessValid (byteAddr (s.ea rs1 imm) 8) 8 = true :=
    (State.accessValid_congr hparams ..).trans (allBytes_upper hv)
  have hread : u.memRead (byteAddr (s.ea rs1 imm) 8) 8 = s.memRead (byteAddr (s.ea rs1 imm) 8) 8 :=
    State.memRead_congr fun k _ => by simp [hu]
  refine ⟨u, _, execFld_at rfl ha (State.accessValid_le (by omega) hv), execFld_at hea (aligned_upper ha) hvu, ?_⟩
  rw [hread]
  exact ⟨rfl, rfl, rfl, rfl⟩

/-- FSX leaves what FSD of the even and then FSD of the odd register leave: the first changes no register. -/
theorem execFsx_eq_two_fsd (h : exec (.fsx rs1 imm r) s = .next t) (ht : t.trap = none)
    (himm : imm'.signExtend 64 = imm.signExtend 64 + 8#64) :
    ∃ u v, exec (.fsd rs1 imm r) s = .next u ∧ exec (.fsd rs1 imm' (highReg r)) u = .next v ∧
      v.f = t.f ∧ v.x = t.x ∧ v.mem = t.mem ∧ v.fflags = t.fflags := by
  obtain ⟨ha, hv, htext, rfl⟩ := execFsx_completed h ht
  set u := (s.memWrite (s.ea rs1 imm) (s.getF r) 8).advance with hu
  have hea : u.ea rs1 imm' = byteAddr (s.ea rs1 imm) 8 :=
    (State.ea_congr (by simp [hu]) rs1 imm').trans (s.ea_add_eight rs1 himm)
  have hparams : u.params = s.params := by simp [hu]
  have hvu : u.accessValid (byteAddr (s.ea rs1 imm) 8) 8 = true :=
    (State.accessValid_congr hparams ..).trans (allBytes_upper hv)
  have htu : u.avoidsText (byteAddr (s.ea rs1 imm) 8) 8 = true :=
    (State.avoidsText_congr hparams ..).trans (allBytes_upper htext)
  have hhi : u.getF (highReg r) = s.getF (highReg r) := by simp [hu]
  refine ⟨u, _, execFsd_at rfl ha (State.accessValid_le (by omega) hv) (State.avoidsText_le (by omega) htext),
    execFsd_at hea (aligned_upper ha) hvu htu, by simp [hu], by simp [hu], ?_, by simp [hu]⟩
  rw [State.advance_mem, State.advance_mem, hhi, State.memWrite_mem_congr (State.advance_mem _)]

end TwoAccesses

/-- Settles O29: the two accesses pass the checks of their halves, and the first leaves what the second needs. -/
theorem pairAccessIsTwoAccesses : Obligations.PairAccessIsTwoAccesses :=
  fun _ _ _ _ _ _ _ ht himm => ⟨fun h => execFlx_eq_two_fld h ht himm, fun h => execFsx_eq_two_fsd h ht himm⟩

end Sys2Proof.Machine
end

section
/-! PROOFS of the encoding family (30_encoding.md), first part: decoding the encoding of a canonical instruction gives
it back (R60 to R70). -/

namespace Sys2Proof

/-! ### The fields that the formats cut (R61 to R65) -/

/-- The parts of format I make up its immediate (R63, R66). -/
theorem encI_immI (imm : BitVec 12) (rs1 : BitVec 5) (f3 : BitVec 3) (rd : BitVec 5) (op : BitVec 7) :
    (encI imm rs1 f3 rd op).immI = imm := imm12_parts imm

/-- The parts of format S make up its immediate (R64, R67). -/
theorem encS_immS (imm : BitVec 12) (rs2 rs1 : BitVec 5) (f3 : BitVec 3) (op : BitVec 7) :
    (encS imm rs2 rs1 f3 op).immS = imm := imm12_parts imm

theorem encR4_funct5 (rs3 : BitVec 5) (fmt : BitVec 2) (rs2 rs1 : BitVec 5) (rm : BitVec 3) (rd : BitVec 5)
    (op : BitVec 7) : (encR4 rs3 fmt rs2 rs1 rm rd op).funct5 = rs3 := extract_high5_of_rs3 rs3 fmt

theorem encR4_fmt (rs3 : BitVec 5) (fmt : BitVec 2) (rs2 rs1 : BitVec 5) (rm : BitVec 3) (rd : BitVec 5)
    (op : BitVec 7) : (encR4 rs3 fmt rs2 rs1 rm rd op).fmt = fmt := extract_low2_of_rs3 rs3 fmt

theorem encI8_funct4 (funct4 : BitVec 4) (imm : BitVec 8) (rs1 : BitVec 5) (f3 : BitVec 3) (rd : BitVec 5)
    (op : BitVec 7) : (encI8 funct4 imm rs1 f3 rd op).f7.extractLsb' 3 4 = funct4 :=
  extract_high4_of_funct4 funct4 _

theorem encI8_imm8 (funct4 : BitVec 4) (imm : BitVec 8) (rs1 : BitVec 5) (f3 : BitVec 3) (rd : BitVec 5)
    (op : BitVec 7) : (encI8 funct4 imm rs1 f3 rd op).imm8 = imm := by
  rw [Fields.imm8, encI8, extract_low3_of_funct4, imm8_parts]

/-! ### The type bits (R15) -/

theorem byFmt_cases {F : Fields} {P : Decoded → Prop} {s d h : Decoded} (hs : F.fmt = 0b00#2 → P s)
    (hd : F.fmt = 0b01#2 → P d) (hh : F.fmt = 0b10#2 → P h)
    (hq : F.fmt = 0b11#2 → P (.reserved .typeBits)) : P (byFmt F s d h) := by
  unfold byFmt
  split
  case h_1 hf => exact hs hf
  case h_2 hf => exact hd hf
  case h_3 hf => exact hh hf
  case h_4 h0 h1 h2 => exact hq (by revert h0 h1 h2; generalize F.fmt = b; revert b; decide)

/-! ### The words that are their X forms with a 2x code (R70, R78) -/

section OrX

variable {F : Fields} {narrow3 : FReg → FReg → FReg → BitVec 3 → Instr} {wide3 : FReg → FReg → FReg → XRm → Instr}
  {narrow2 : FReg → FReg → BitVec 3 → Instr} {wide2 : FReg → FReg → XRm → Instr}

theorem arithOrX_of_narrow (h : isWideRm F.f3 = false) :
    arithOrX F narrow3 wide3 = .instr (narrow3 F.rd F.rs1 F.rs2 F.f3) := by
  rw [arithOrX, XRm.ofBits_of_narrow h]

theorem arithOrX_of_wide {x : XRm} (h : F.f3 = x.bits) :
    arithOrX F narrow3 wide3 = .instr (wide3 F.rd F.rs1 F.rs2 x) := by
  rw [arithOrX, h, XRm.ofBits_bits]

theorem unaryOrX_of_narrow (h : isWideRm F.f3 = false) :
    unaryOrX F narrow2 wide2 = .instr (narrow2 F.rd F.rs1 F.f3) := by
  rw [unaryOrX, XRm.ofBits_of_narrow h]

theorem unaryOrX_of_wide {x : XRm} (h : F.f3 = x.bits) :
    unaryOrX F narrow2 wide2 = .instr (wide2 F.rd F.rs1 x) := by
  rw [unaryOrX, h, XRm.ofBits_bits]

end OrX

/-- A canonical instruction whose encoding has an X form carries no 2x code (R78). -/
theorem Instr.narrow_of_canonical {i : Instr} {rm : BitVec 3} (hc : i.canonical = true)
    (hf : i.rmField = some (rm, true)) : isWideRm rm = false := by
  simpa [Instr.canonical, hf] using hc

/-! ### Decoding what was encoded -/

/-- An OP-FP word in format R goes by the two parts of its funct7: funct5 and the type bits (R61, R71). -/
theorem decodeFields_encR_opFp (f7 : BitVec 7) (rs2 rs1 : BitVec 5) (f3 : BitVec 3) (rd : BitVec 5) :
    decodeFields (encR f7 rs2 rs1 f3 rd 0b1010011#7) = decodeOpFp (encR f7 rs2 rs1 f3 rd 0b1010011#7) := rfl

theorem encR_funct5 (f7 : BitVec 7) (rs2 rs1 : BitVec 5) (f3 : BitVec 3) (rd : BitVec 5) (op : BitVec 7) :
    (encR f7 rs2 rs1 f3 rd op).funct5 = f7.extractLsb' 2 5 := rfl

theorem encR_fmt (f7 : BitVec 7) (rs2 rs1 : BitVec 5) (f3 : BitVec 3) (rd : BitVec 5) (op : BitVec 7) :
    (encR f7 rs2 rs1 f3 rd op).fmt = f7.extractLsb' 0 2 := rfl

/-- The decoder gives an instruction back from its fields: the immediates by their parts, the words that have an X form by
their rounding field, the rest by the codes alone. -/
theorem decodeFields_encodeFields {i : Instr} (hc : i.canonical = true) :
    decodeFields (encodeFields i) = .instr i := by
  cases i with
  | flh _ _ imm | flw _ _ imm | fld _ _ imm | flx _ _ imm | jalr _ _ imm | addi _ _ imm =>
    exact congrArg (fun imm => Decoded.instr _) (encI_immI imm ..)
  | fsh rs1 imm rs2 | fsw rs1 imm rs2 | fsd rs1 imm rs2 | fsx rs1 imm rs2 =>
    simp only [encodeFields, decodeFields, decodeStore, encS_immS]
    simp only [encS]
  | pshufW rd rs1 imm | pfshufW rd rs1 imm =>
    simp only [encodeFields, decodeFields, decodeShuffle, encI8_funct4, encI8_imm8]
    simp only [encI8]
  | pmaddS | pmaddH | pmsubS | pmsubH | pnmsubS | pnmsubH | pnmaddS | pnmaddH =>
    simp only [encodeFields, decodeFields, decodeFma, byFmt, encR4_fmt, encR4_funct5]
    simp only [encR4]
  | paddS | psubS | pmulS | pdivS | faddD | fsubD | fmulD | fdivD | paddH | psubH | pmulH | pdivH =>
    simp only [encodeFields, decodeFields_encR_opFp, decodeOpFp, encR_funct5, encR_fmt, byFmt,
      BitVec.reduceExtractLsb']
    exact arithOrX_of_narrow (F := encR ..) (Instr.narrow_of_canonical hc rfl)
  | paddxS | psubxS | pmulxS | pdivxS | paddxD | psubxD | pmulxD | pdivxD | paddxH | psubxH | pmulxH | pdivxH =>
    simp only [encodeFields, decodeFields_encR_opFp, decodeOpFp, encR_funct5, encR_fmt, byFmt,
      BitVec.reduceExtractLsb']
    exact arithOrX_of_wide (F := encR ..) rfl
  | pcvtSH | pcvtHS | pcvtSBf16 | pcvtBf16S | psqrtS | fsqrtD =>
    simp only [encodeFields, decodeFields_encR_opFp, decodeOpFp, encR_funct5, encR_fmt, byFmt,
      BitVec.reduceExtractLsb']
    exact unaryOrX_of_narrow (F := encR ..) (Instr.narrow_of_canonical hc rfl)
  | pcvtxSH | pcvtxHS | pcvtxSBf16 | pcvtxBf16S | psqrtxS | psqrtxD =>
    simp only [encodeFields, decodeFields_encR_opFp, decodeOpFp, encR_funct5, encR_fmt, byFmt,
      BitVec.reduceExtractLsb']
    exact unaryOrX_of_wide (F := encR ..) rfl
  | pack | packu | sub | pkbb16 | pkbt16 | pktb16 | pktt16 | pkbb32 | pkbt32 | pktb32 | pktt32 => rfl
  | prcpaS | frcpaD | prcpaH | psqrtaS | fsqrtaD | psqrtaH | fmvDX =>
    simp only [encodeFields, decodeFields_encR_opFp, decodeOpFp, encR_funct5, encR_fmt, decodeHelperGroup,
      decodeMoveToF, byFmt, BitVec.reduceExtractLsb']
    rfl
  | _ =>
    simp only [encodeFields, decodeFields_encR_opFp, decodeOpFp, encR_funct5, encR_fmt, byFmt,
      BitVec.reduceExtractLsb']
    rfl

/-- Settles O1: the word of an instruction has the fields the instruction was encoded in. -/
theorem decodeEncode : Obligations.DecodeEncode :=
  fun i hc => (decode_word (encodeFields i)).trans (decodeFields_encodeFields hc)

/-- Settles O3, by running the decoder on the fourteen words. -/
theorem decodeExampleWords : Obligations.DecodeExampleWords := by
  unfold Obligations.DecodeExampleWords
  decide

end Sys2Proof
end

section
/-! PROOFS of the encoding family, second part: what a word decodes to is canonical and encodes to that word (R60, R61,
R70, R78). The decoder's functions are taken one by one, each with the fields its callers have matched. -/

namespace Sys2Proof

/-! ### The formats put the fields of a word together again (R61 to R65) -/

theorem Fields.f7_eq {F : Fields} {a : BitVec 5} {b : BitVec 2} (h5 : F.funct5 = a) (hf : F.fmt = b) :
    F.f7 = a ++ b := by
  subst h5 hf
  exact (BitVec.extractLsb'_append_extractLsb' (len := 2) (w := 5) (x := F.f7)).symm

section Formats

variable {F : Fields} {f7 : BitVec 7} {funct4 : BitVec 4} {rs2 : BitVec 5} {fmt : BitVec 2} {f3 : BitVec 3}
  {op : BitVec 7}

theorem encR_eq (h7 : F.f7 = f7) (h2 : F.rs2 = rs2) (h3 : F.f3 = f3) (ho : F.op = op) :
    encR f7 rs2 F.rs1 f3 F.rd op = F := by subst h7 h2 h3 ho; rfl

theorem encR4_eq (hf : F.fmt = fmt) (ho : F.op = op) : encR4 F.funct5 fmt F.rs2 F.rs1 F.f3 F.rd op = F := by
  rw [encR4, ← Fields.f7_eq rfl hf, ← ho]

theorem encI_eq (h3 : F.f3 = f3) (ho : F.op = op) : encI F.immI F.rs1 f3 F.rd op = F := by
  rw [encI, Fields.immI, BitVec.extractLsb'_append_eq_left, BitVec.extractLsb'_append_eq_right, ← h3, ← ho]

theorem encS_eq (h3 : F.f3 = f3) (ho : F.op = op) : encS F.immS F.rs2 F.rs1 f3 op = F := by
  rw [encS, Fields.immS, BitVec.extractLsb'_append_eq_left, BitVec.extractLsb'_append_eq_right, ← h3, ← ho]

theorem encI8_eq (h4 : F.f7.extractLsb' 3 4 = funct4) (h3 : F.f3 = f3) (ho : F.op = op) :
    encI8 funct4 F.imm8 F.rs1 f3 F.rd op = F := by
  rw [encI8, Fields.imm8, BitVec.extractLsb'_append_eq_left, BitVec.extractLsb'_append_eq_right, ← h4, ← h3, ← ho,
    BitVec.extractLsb'_append_extractLsb']

end Formats

/-! ### What reads back -/

/-- What the decoder answers for the fields `F` loses none of them: an instruction is canonical and has these fields. -/
def ReadsBack (F : Fields) : Decoded → Prop
  | .instr i => encodeFields i = F ∧ i.canonical = true
  | .reserved _ => True
  | .notOfThisSpec => True
  | .truncated => True

variable {F : Fields}

theorem ReadsBack.byFmt {s d h : Decoded} (hs : F.fmt = 0b00#2 → ReadsBack F s) (hd : F.fmt = 0b01#2 → ReadsBack F d)
    (hh : F.fmt = 0b10#2 → ReadsBack F h) : ReadsBack F (byFmt F s d h) :=
  byFmt_cases hs hd hh fun _ => trivial

/-- A 2x code is the code of an X form (R14). -/
theorem exists_bits_of_isWideRm {rm : BitVec 3} (h : isWideRm rm = true) : ∃ x : XRm, rm = x.bits := by
  rcases Bool.or_eq_true_iff.1 h with h | h
  · exact ⟨.rtz2, eq_of_beq h⟩
  · exact ⟨.rne2, eq_of_beq h⟩

theorem Instr.canonical_of_narrow {i : Instr} {rm : BitVec 3} {hasX : Bool} (hf : i.rmField = some (rm, hasX))
    (hrm : isWideRm rm = false) : i.canonical = true := by
  cases hasX <;> simp [Instr.canonical, hf, hrm]

/-- A three-register OP-FP word and its X form, in format R with one funct7 (R136). -/
theorem ReadsBack.arithOrX {f7 : BitVec 7} {narrow : FReg → FReg → FReg → BitVec 3 → Instr}
    {wide : FReg → FReg → FReg → XRm → Instr} (h7 : F.f7 = f7) (ho : F.op = 0b1010011#7)
    (encN : ∀ rd rs1 rs2 rm, encodeFields (narrow rd rs1 rs2 rm) = encR f7 rs2 rs1 rm rd 0b1010011#7 := by intros; rfl)
    (encW : ∀ rd rs1 rs2 x, encodeFields (wide rd rs1 rs2 x) = encR f7 rs2 rs1 x.bits rd 0b1010011#7 := by intros; rfl)
    (fieldN : ∀ rd rs1 rs2 rm, (narrow rd rs1 rs2 rm).rmField = some (rm, true) := by intros; rfl)
    (canW : ∀ rd rs1 rs2 x, (wide rd rs1 rs2 x).canonical = true := by intros; rfl) :
    ReadsBack F (arithOrX F narrow wide) := by
  cases hrm : isWideRm F.f3 with
  | true =>
    obtain ⟨x, hx⟩ := exists_bits_of_isWideRm hrm
    rw [arithOrX_of_wide hx]
    exact ⟨(encW ..).trans (encR_eq h7 rfl hx ho), canW ..⟩
  | false =>
    rw [arithOrX_of_narrow hrm]
    exact ⟨(encN ..).trans (encR_eq h7 rfl rfl ho), Instr.canonical_of_narrow (fieldN ..) hrm⟩

/-- A one-source OP-FP word and its X form, in format R with one funct7 and one rs2 (R78). -/
theorem ReadsBack.unaryOrX {f7 : BitVec 7} {rs2 : BitVec 5} {narrow : FReg → FReg → BitVec 3 → Instr}
    {wide : FReg → FReg → XRm → Instr} (h7 : F.f7 = f7) (h2 : F.rs2 = rs2) (ho : F.op = 0b1010011#7)
    (encN : ∀ rd rs1 rm, encodeFields (narrow rd rs1 rm) = encR f7 rs2 rs1 rm rd 0b1010011#7 := by intros; rfl)
    (encW : ∀ rd rs1 x, encodeFields (wide rd rs1 x) = encR f7 rs2 rs1 x.bits rd 0b1010011#7 := by intros; rfl)
    (fieldN : ∀ rd rs1 rm, (narrow rd rs1 rm).rmField = some (rm, true) := by intros; rfl)
    (canW : ∀ rd rs1 x, (wide rd rs1 x).canonical = true := by intros; rfl) :
    ReadsBack F (unaryOrX F narrow wide) := by
  cases hrm : isWideRm F.f3 with
  | true =>
    obtain ⟨x, hx⟩ := exists_bits_of_isWideRm hrm
    rw [unaryOrX_of_wide hx]
    exact ⟨(encW ..).trans (encR_eq h7 h2 hx ho), canW ..⟩
  | false =>
    rw [unaryOrX_of_narrow hrm]
    exact ⟨(encN ..).trans (encR_eq h7 h2 rfl ho), Instr.canonical_of_narrow (fieldN ..) hrm⟩

/-! ### Loads and stores (R73) -/

theorem decodeLoad_readsBack (ho : F.op = 0b0000111#7) : ReadsBack F (decodeLoad F) := by
  unfold decodeLoad
  split
  case h_5 => trivial
  all_goals next h3 => exact ⟨encI_eq h3 ho, rfl⟩

theorem decodeStore_readsBack (ho : F.op = 0b0100111#7) : ReadsBack F (decodeStore F) := by
  unfold decodeStore
  split
  case h_5 => trivial
  all_goals next h3 => exact ⟨encS_eq h3 ho, rfl⟩

/-! ### OP-FP (R71, R72) -/

section OpFp

variable (ho : F.op = 0b1010011#7)
include ho

theorem decodeSignPackS_readsBack (h7 : F.f7 = 0b0010000#7) : ReadsBack F (decodeSignPackS F) := by
  unfold decodeSignPackS
  split
  case h_8 => trivial
  all_goals next h3 => exact ⟨encR_eq h7 rfl h3 ho, rfl⟩

theorem decodeSignPackD_readsBack (h7 : F.f7 = 0b0010001#7) : ReadsBack F (decodeSignPackD F) := by
  unfold decodeSignPackD
  split
  case h_8 => trivial
  all_goals next h3 => exact ⟨encR_eq h7 rfl h3 ho, rfl⟩

theorem decodeSignPackH_readsBack (h7 : F.f7 = 0b0010010#7) : ReadsBack F (decodeSignPackH F) := by
  unfold decodeSignPackH
  split
  case h_4 => trivial
  all_goals next h3 => exact ⟨encR_eq h7 rfl h3 ho, rfl⟩

/-- An OP-FP word in format R, by its type bits and funct3. -/
theorem ReadsBack.opFp {a : BitVec 5} {b : BitVec 2} {f3 : BitVec 3} {i : Instr} (h5 : F.funct5 = a) (hf : F.fmt = b)
    (h3 : F.f3 = f3) (enc : encodeFields i = encR (a ++ b) F.rs2 F.rs1 f3 F.rd 0b1010011#7 := by rfl)
    (can : i.canonical = true := by rfl) : ReadsBack F (.instr i) :=
  ⟨enc.trans (encR_eq (Fields.f7_eq h5 hf) rfl h3 ho), can⟩

omit ho in
theorem decodeMinMax_readsBack {mn mx : Decoded} (hmn : F.f3 = 0b000#3 → ReadsBack F mn)
    (hmx : F.f3 = 0b001#3 → ReadsBack F mx) : ReadsBack F (decodeMinMax F mn mx) := by
  unfold decodeMinMax
  split
  case h_1 h3 => exact hmn h3
  case h_2 h3 => exact hmx h3
  case h_3 => trivial

theorem decodeCvtToS_readsBack (h7 : F.f7 = 0b0100000#7) : ReadsBack F (decodeCvtToS F) := by
  unfold decodeCvtToS
  split
  case h_2 h2 | h_3 h2 => exact .unaryOrX h7 h2 ho
  case h_6 => trivial
  all_goals next h2 => exact ⟨encR_eq h7 h2 rfl ho, rfl⟩

theorem decodeCvtToD_readsBack (h7 : F.f7 = 0b0100001#7) : ReadsBack F (decodeCvtToD F) := by
  unfold decodeCvtToD
  split
  case h_4 => trivial
  all_goals next h2 => exact ⟨encR_eq h7 h2 rfl ho, rfl⟩

theorem decodeCvtToH_readsBack (h7 : F.f7 = 0b0100010#7) : ReadsBack F (decodeCvtToH F) := by
  unfold decodeCvtToH
  split
  case h_1 h2 | h_3 h2 => exact .unaryOrX h7 h2 ho
  case h_5 => trivial
  all_goals next h2 => exact ⟨encR_eq h7 h2 rfl ho, rfl⟩

omit ho in
theorem decodeSqrt_readsBack {d : Decoded} (hd : F.rs2 = 0b00000#5 → ReadsBack F d) : ReadsBack F (decodeSqrt F d) := by
  unfold decodeSqrt
  split
  case h_1 h2 => exact hd h2
  case h_2 => trivial

omit ho in
theorem decodeCompare_readsBack {le lt eq : Decoded} (hle : F.f3 = 0b000#3 → ReadsBack F le)
    (hlt : F.f3 = 0b001#3 → ReadsBack F lt) (heq : F.f3 = 0b010#3 → ReadsBack F eq) :
    ReadsBack F (decodeCompare F le lt eq) := by
  unfold decodeCompare
  split
  case h_1 h3 => exact hle h3
  case h_2 h3 => exact hlt h3
  case h_3 h3 => exact heq h3
  case h_4 => trivial

theorem decodeMoveFromF_readsBack (h7 : F.f7 = 0b1110001#7) : ReadsBack F (decodeMoveFromF F) := by
  unfold decodeMoveFromF
  split
  case h_1 h2 h3 => exact ⟨encR_eq h7 h2 h3 ho, rfl⟩
  case h_2 => trivial

theorem decodeMoveToF_readsBack (h5 : F.funct5 = 0b11110#5) (h3 : F.f3 = 0b000#3) :
    ReadsBack F (decodeMoveToF F) := by
  unfold decodeMoveToF
  split
  case h_1 h2 =>
    exact .byFmt (fun _ => trivial) (fun hf => ⟨encR_eq (Fields.f7_eq h5 hf) h2 h3 ho, rfl⟩) (fun _ => trivial)
  case h_2 => exact .byFmt (fun _ => trivial) (fun _ => trivial) (fun _ => trivial)

theorem decodeHelper_readsBack {f7 : BitVec 7} {rcpa sqrta : FReg → FReg → Instr} (h7 : F.f7 = f7)
    (h3 : F.f3 = 0b001#3)
    (encRcpa : ∀ rd rs1, encodeFields (rcpa rd rs1) = encR f7 0b00001#5 rs1 0b001#3 rd 0b1010011#7 := by intros; rfl)
    (encSqrta : ∀ rd rs1, encodeFields (sqrta rd rs1) = encR f7 0b00010#5 rs1 0b001#3 rd 0b1010011#7 := by intros; rfl)
    (canRcpa : ∀ rd rs1, (rcpa rd rs1).canonical = true := by intros; rfl)
    (canSqrta : ∀ rd rs1, (sqrta rd rs1).canonical = true := by intros; rfl) :
    ReadsBack F (decodeHelper F rcpa sqrta) := by
  unfold decodeHelper
  split
  case h_1 h2 => exact ⟨(encRcpa ..).trans (encR_eq h7 h2 h3 ho), canRcpa ..⟩
  case h_2 h2 => exact ⟨(encSqrta ..).trans (encR_eq h7 h2 h3 ho), canSqrta ..⟩
  case h_3 => trivial

theorem decodeHelperGroup_readsBack (h5 : F.funct5 = 0b11110#5) : ReadsBack F (decodeHelperGroup F) := by
  unfold decodeHelperGroup
  split
  case h_1 h3 => exact decodeMoveToF_readsBack ho h5 h3
  case h_2 h3 =>
    exact .byFmt (fun hf => decodeHelper_readsBack ho (Fields.f7_eq h5 hf) h3)
      (fun hf => decodeHelper_readsBack ho (Fields.f7_eq h5 hf) h3)
      (fun hf => decodeHelper_readsBack ho (Fields.f7_eq h5 hf) h3)
  case h_3 => exact .byFmt (fun _ => trivial) (fun _ => trivial) (fun _ => trivial)

theorem decodeOpFp_readsBack : ReadsBack F (decodeOpFp F) := by
  unfold decodeOpFp
  split
  case h_1 h5 | h_2 h5 | h_3 h5 | h_4 h5 =>
    exact .byFmt (fun hf => .arithOrX (Fields.f7_eq h5 hf) ho) (fun hf => .arithOrX (Fields.f7_eq h5 hf) ho)
      (fun hf => .arithOrX (Fields.f7_eq h5 hf) ho)
  case h_5 h5 =>
    exact .byFmt (fun hf => decodeSignPackS_readsBack ho (Fields.f7_eq h5 hf))
      (fun hf => decodeSignPackD_readsBack ho (Fields.f7_eq h5 hf))
      (fun hf => decodeSignPackH_readsBack ho (Fields.f7_eq h5 hf))
  case h_6 h5 =>
    exact .byFmt (fun hf => decodeMinMax_readsBack (.opFp ho h5 hf) (.opFp ho h5 hf))
      (fun _ => decodeMinMax_readsBack (fun _ => trivial) fun _ => trivial)
      (fun hf => decodeMinMax_readsBack (.opFp ho h5 hf) (.opFp ho h5 hf))
  case h_7 h5 =>
    exact .byFmt (fun hf => decodeCvtToS_readsBack ho (Fields.f7_eq h5 hf))
      (fun hf => decodeCvtToD_readsBack ho (Fields.f7_eq h5 hf))
      (fun hf => decodeCvtToH_readsBack ho (Fields.f7_eq h5 hf))
  case h_8 h5 =>
    exact .byFmt (fun hf => decodeSqrt_readsBack fun h2 => .unaryOrX (Fields.f7_eq h5 hf) h2 ho)
      (fun hf => decodeSqrt_readsBack fun h2 => .unaryOrX (Fields.f7_eq h5 hf) h2 ho)
      (fun hf => decodeSqrt_readsBack fun h2 => ⟨encR_eq (Fields.f7_eq h5 hf) h2 rfl ho, rfl⟩)
  case h_9 h5 =>
    exact .byFmt (fun hf => decodeCompare_readsBack (.opFp ho h5 hf) (.opFp ho h5 hf) (.opFp ho h5 hf))
      (fun hf => decodeCompare_readsBack (.opFp ho h5 hf) (.opFp ho h5 hf) (.opFp ho h5 hf))
      (fun hf => decodeCompare_readsBack (.opFp ho h5 hf) (.opFp ho h5 hf) (.opFp ho h5 hf))
  case h_10 h5 =>
    exact .byFmt (fun _ => trivial) (fun hf => decodeMoveFromF_readsBack ho (Fields.f7_eq h5 hf)) (fun _ => trivial)
  case h_11 h5 => exact decodeHelperGroup_readsBack ho h5
  case h_12 => trivial

end OpFp

/-! ### The other opcodes (R74, R75, R294, R296) -/

theorem decodeFma_readsBack {op : BitVec 7} {s h : FReg → FReg → FReg → FReg → BitVec 3 → Instr} (ho : F.op = op)
    (encS : ∀ rd rs1 rs2 rs3 rm, encodeFields (s rd rs1 rs2 rs3 rm) = encR4 rs3 0b00#2 rs2 rs1 rm rd op := by
      intros; rfl)
    (encH : ∀ rd rs1 rs2 rs3 rm, encodeFields (h rd rs1 rs2 rs3 rm) = encR4 rs3 0b10#2 rs2 rs1 rm rd op := by
      intros; rfl)
    (canS : ∀ rd rs1 rs2 rs3 rm, (s rd rs1 rs2 rs3 rm).canonical = true := by intros; rfl)
    (canH : ∀ rd rs1 rs2 rs3 rm, (h rd rs1 rs2 rs3 rm).canonical = true := by intros; rfl) :
    ReadsBack F (decodeFma F s h) :=
  .byFmt (fun hf => ⟨(encS ..).trans (encR4_eq hf ho), canS ..⟩) (fun _ => trivial)
    fun hf => ⟨(encH ..).trans (encR4_eq hf ho), canH ..⟩

theorem decodeOp_readsBack (ho : F.op = 0b0110011#7) : ReadsBack F (decodeOp F) := by
  unfold decodeOp
  split
  case h_4 => trivial
  all_goals next h7 h3 => exact ⟨encR_eq h7 rfl h3 ho, rfl⟩

theorem decodeShuffle_readsBack (ho : F.op = 0b0011011#7) : ReadsBack F (decodeShuffle F) := by
  unfold decodeShuffle
  split
  case h_3 => trivial
  all_goals next h4 h3 => exact ⟨encI8_eq h4 h3 ho, rfl⟩

theorem decodePkGroup_readsBack (ho : F.op = 0b1110111#7) : ReadsBack F (decodePkGroup F) := by
  unfold decodePkGroup
  split
  case h_3 => trivial
  all_goals
    next h3 =>
      unfold decodePk
      split
      case h_5 => trivial
      all_goals next h7 => exact ⟨encR_eq h7 rfl h3 ho, rfl⟩

theorem decodeImport_readsBack {op : BitVec 7} {c : XReg → XReg → BitVec 12 → Instr} (ho : F.op = op)
    (enc : ∀ rd rs1 imm, encodeFields (c rd rs1 imm) = encI imm rs1 0b000#3 rd op := by intros; rfl)
    (can : ∀ rd rs1 imm, (c rd rs1 imm).canonical = true := by intros; rfl) : ReadsBack F (decodeImport F c) := by
  unfold decodeImport
  split
  case h_1 h3 => exact ⟨(enc ..).trans (encI_eq h3 ho), can ..⟩
  case h_2 => trivial

/-! ### Every word -/

theorem decodeFields_readsBack (F : Fields) : ReadsBack F (decodeFields F) := by
  unfold decodeFields
  split
  case h_1 ho => exact decodeLoad_readsBack ho
  case h_2 ho => exact decodeStore_readsBack ho
  case h_3 ho => exact decodeOpFp_readsBack ho
  case h_4 ho | h_5 ho | h_6 ho | h_7 ho => exact decodeFma_readsBack ho
  case h_8 ho => exact decodeOp_readsBack ho
  case h_9 ho => exact decodeShuffle_readsBack ho
  case h_10 ho => exact decodePkGroup_readsBack ho
  case h_11 ho | h_12 ho => exact decodeImport_readsBack ho
  case h_13 => trivial

/-- Settles O2: the decoder reads the fields of the word back, and the word is made of its fields. -/
theorem encodeDecode : Obligations.EncodeDecode := by
  intro w i hi
  have hread := decodeFields_readsBack (fieldsOf w)
  rw [← decode, hi] at hread
  obtain ⟨hfields, hcanonical⟩ := hread
  exact ⟨(congrArg Fields.word hfields).trans (word_fieldsOf w), hcanonical⟩

end Sys2Proof
end

section
/-! PROOFS of the encoding family, third part: the words that are reserved and the words outside the spec (R70 to R77,
R81, R185, R238, R303). -/

namespace Sys2Proof

variable {F : Fields}

/-! ### The type bits (R15, R77) -/

theorem byFmt_typeBits {s d h : Decoded} (hf : F.fmt = 0b11#2) : byFmt F s d h = .reserved .typeBits := by
  rw [byFmt, hf]; rfl

/-- The middle answer of `byFmt` is that of the type bits 01. -/
theorem byFmt_d {s d h : Decoded} (hf : F.fmt = 0b01#2) : byFmt F s d h = d := by
  simp only [byFmt, hf]

/-- A reserved encoding, whatever the reason (R77, R81). -/
def Decoded.IsReserved (d : Decoded) : Prop := ∃ why, d = .reserved why

theorem Decoded.isReserved (why : ReservedWhy) : (Decoded.reserved why).IsReserved := ⟨why, rfl⟩

theorem Decoded.IsReserved.byFmt {s d h : Decoded} (hs : F.fmt = 0b00#2 → s.IsReserved)
    (hd : F.fmt = 0b01#2 → d.IsReserved) (hh : F.fmt = 0b10#2 → h.IsReserved) : (byFmt F s d h).IsReserved :=
  byFmt_cases hs hd hh fun _ => isReserved _

theorem byFmt_outside {s d h : Decoded} (hq : F.fmt ≠ 0b11#2) (hs : F.fmt = 0b00#2 → s = .notOfThisSpec)
    (hd : F.fmt = 0b01#2 → d = .notOfThisSpec) (hh : F.fmt = 0b10#2 → h = .notOfThisSpec) :
    byFmt F s d h = .notOfThisSpec :=
  byFmt_cases (P := (· = .notOfThisSpec)) hs hd hh fun hf => absurd hf hq

/-! ### Words by their opcode (R69) -/

theorem decode_load (ho : F.op = 0b0000111#7) : decode F.word = decodeLoad F := by
  simp only [decode_word, decodeFields, ho]

theorem decode_store (ho : F.op = 0b0100111#7) : decode F.word = decodeStore F := by
  simp only [decode_word, decodeFields, ho]

theorem decode_opFp (ho : F.op = 0b1010011#7) : decode F.word = decodeOpFp F := by
  simp only [decode_word, decodeFields, ho]

theorem decode_fma (ho : F.op ∈ [0b1000011#7, 0b1000111#7, 0b1001011#7, 0b1001111#7]) :
    ∃ s h, decode F.word = decodeFma F s h := by
  simp only [List.mem_cons, List.not_mem_nil, or_false] at ho
  rcases ho with ho | ho | ho | ho <;> exact ⟨_, _, by simp only [decode_word, decodeFields, ho]; rfl⟩

theorem decode_pk (ho : F.op = 0b1110111#7) : decode F.word = decodePkGroup F := by
  simp only [decode_word, decodeFields, ho]

theorem decode_op (ho : F.op = 0b0110011#7) : decode F.word = decodeOp F := by
  simp only [decode_word, decodeFields, ho]

theorem decode_shuffle (ho : F.op = 0b0011011#7) : decode F.word = decodeShuffle F := by
  simp only [decode_word, decodeFields, ho]

theorem decode_import (ho : F.op = 0b0010011#7 ∨ F.op = 0b1100111#7) : ∃ c, decode F.word = decodeImport F c := by
  rcases ho with ho | ho <;> exact ⟨_, by simp only [decode_word, decodeFields, ho]; rfl⟩

/-- The spec uses twelve opcodes (R69). -/
theorem decode_otherOpcode (ho : F.op ∉ [0b0000111#7, 0b0100111#7, 0b1010011#7, 0b1000011#7, 0b1000111#7, 0b1001011#7,
    0b1001111#7, 0b0110011#7, 0b0011011#7, 0b1110111#7, 0b0010011#7, 0b1100111#7]) :
    decode F.word = .notOfThisSpec := by
  rw [decode_word]
  unfold decodeFields
  split
  case h_13 => rfl
  all_goals next h => exact absurd (by rw [h]; decide) ho

/-! ### OP-FP words by their funct5 (R71) -/

section Funct5

variable (ho : F.op = 0b1010011#7)
include ho

theorem decode_signPack (h5 : F.funct5 = 0b00100#5) :
    decode F.word = byFmt F (decodeSignPackS F) (decodeSignPackD F) (decodeSignPackH F) := by
  simp only [decode_opFp ho, decodeOpFp, h5]

theorem decode_minMax (h5 : F.funct5 = 0b00101#5) :
    decode F.word = byFmt F (decodeMinMax F (.instr (.pminS F.rd F.rs1 F.rs2)) (.instr (.pmaxS F.rd F.rs1 F.rs2)))
      (decodeMinMax F .notOfThisSpec .notOfThisSpec)
      (decodeMinMax F (.instr (.pminH F.rd F.rs1 F.rs2)) (.instr (.pmaxH F.rd F.rs1 F.rs2))) := by
  simp only [decode_opFp ho, decodeOpFp, h5]

theorem decode_cvt (h5 : F.funct5 = 0b01000#5) :
    decode F.word = byFmt F (decodeCvtToS F) (decodeCvtToD F) (decodeCvtToH F) := by
  simp only [decode_opFp ho, decodeOpFp, h5]

theorem decode_moveFromF (h5 : F.funct5 = 0b11100#5) :
    decode F.word = byFmt F .notOfThisSpec (decodeMoveFromF F) .notOfThisSpec := by
  simp only [decode_opFp ho, decodeOpFp, h5]

theorem decode_helperGroup (h5 : F.funct5 = 0b11110#5) : decode F.word = decodeHelperGroup F := by
  simp only [decode_opFp ho, decodeOpFp, h5]

/-- The spec uses eleven codes of funct5 (R71). -/
theorem decode_otherFunct5 (h5 : F.funct5 ∉ [0b00000#5, 0b00001#5, 0b00010#5, 0b00011#5, 0b00100#5, 0b00101#5,
    0b01000#5, 0b01011#5, 0b10100#5, 0b11100#5, 0b11110#5]) : decode F.word = .notOfThisSpec := by
  rw [decode_opFp ho]
  unfold decodeOpFp
  split
  case h_12 => rfl
  all_goals next h => exact absurd (by rw [h]; decide) h5

end Funct5

/-! ### Reserved widths and type bits (R73, R77) -/

theorem decodeLoad_reserved (h3 : F.f3 = 0b000#3 ∨ F.f3 = 0b101#3 ∨ F.f3 = 0b110#3 ∨ F.f3 = 0b111#3) :
    decodeLoad F = .reserved .loadStoreWidth := by
  rcases h3 with h3 | h3 | h3 | h3 <;> (rw [decodeLoad, h3]; rfl)

theorem decodeStore_reserved (h3 : F.f3 = 0b000#3 ∨ F.f3 = 0b101#3 ∨ F.f3 = 0b110#3 ∨ F.f3 = 0b111#3) :
    decodeStore F = .reserved .loadStoreWidth := by
  rcases h3 with h3 | h3 | h3 | h3 <;> (rw [decodeStore, h3]; rfl)

theorem decodeHelperGroup_typeBits (hf : F.fmt = 0b11#2) : decodeHelperGroup F = .reserved .typeBits := by
  unfold decodeHelperGroup decodeMoveToF
  split
  · split <;> exact byFmt_typeBits hf
  · exact byFmt_typeBits hf
  · exact byFmt_typeBits hf

theorem decodeOpFp_typeBits (h5 : F.funct5 ∈ [0b00000#5, 0b00001#5, 0b00010#5, 0b00011#5, 0b00100#5, 0b00101#5,
    0b01000#5, 0b01011#5, 0b10100#5, 0b11100#5, 0b11110#5]) (hf : F.fmt = 0b11#2) :
    decodeOpFp F = .reserved .typeBits := by
  unfold decodeOpFp
  split
  case h_11 => exact decodeHelperGroup_typeBits hf
  case h_12 => simp_all
  all_goals exact byFmt_typeBits hf

/-- Settles O7: the widths by the decoder's own codes, the type bits by the one selector of every group. -/
theorem reservedWords : Obligations.ReservedWords := by
  intro F
  refine ⟨fun ho h3 => ?_, fun ho h5 hf => ?_, fun ho hf => ?_⟩
  · rcases ho with ho | ho
    · exact (decode_load ho).trans (decodeLoad_reserved h3)
    · exact (decode_store ho).trans (decodeStore_reserved h3)
  · exact (decode_opFp ho).trans (decodeOpFp_typeBits h5 hf)
  · obtain ⟨s, h, hd⟩ := decode_fma ho
    exact hd.trans (byFmt_typeBits hf)

/-! ### Unassigned codes (R81, R238) -/

theorem decodeMinMax_isReserved {mn mx : Decoded} (h0 : F.f3 ≠ 0b000#3) (h1 : F.f3 ≠ 0b001#3) :
    (decodeMinMax F mn mx).IsReserved := by
  unfold decodeMinMax
  split
  case h_1 h => exact absurd h h0
  case h_2 h => exact absurd h h1
  case h_3 => exact Decoded.isReserved _

theorem decodeSignPackH_isReserved (h3 : F.f3.getLsbD 2 = true) : (decodeSignPackH F).IsReserved := by
  unfold decodeSignPackH
  split
  case h_4 => exact Decoded.isReserved _
  all_goals next h => rw [h] at h3; cases h3

theorem decodeSqrt_isReserved {d : Decoded} (h2 : F.rs2 ≠ 0b00000#5) : (decodeSqrt F d).IsReserved := by
  unfold decodeSqrt
  split
  case h_1 h => exact absurd h h2
  case h_2 => exact Decoded.isReserved _

theorem decodeHelper_isReserved {rcpa sqrta : FReg → FReg → Instr} (h1 : F.rs2 ≠ 0b00001#5) (h2 : F.rs2 ≠ 0b00010#5) :
    (decodeHelper F rcpa sqrta).IsReserved := by
  unfold decodeHelper
  split
  case h_1 h => exact absurd h h1
  case h_2 h => exact absurd h h2
  case h_3 => exact Decoded.isReserved _

theorem byFmt_unassigned_isReserved :
    (byFmt F (.reserved .unassigned) (.reserved .unassigned) (.reserved .unassigned)).IsReserved :=
  .byFmt (fun _ => Decoded.isReserved _) (fun _ => Decoded.isReserved _) fun _ => Decoded.isReserved _

theorem decodeMoveToF_isReserved (h2 : F.rs2 ≠ 0b00000#5) : (decodeMoveToF F).IsReserved := by
  unfold decodeMoveToF
  split
  case h_1 h => exact absurd h h2
  case h_2 => exact byFmt_unassigned_isReserved

theorem decodePk_isReserved {bb bt tb tt : XReg → XReg → XReg → Instr}
    (h7 : F.f7 ∉ [0b0000111#7, 0b0001111#7, 0b0010111#7, 0b0011111#7]) : (decodePk F bb bt tb tt).IsReserved := by
  unfold decodePk
  split
  case h_5 => exact Decoded.isReserved _
  all_goals next h => exact absurd (by rw [h]; decide) h7

/-- The pairs of type bits and rs2 that are conversions (R72). -/
def assignedCvt : List (BitVec 2 × BitVec 5) :=
  [(0b00#2, 0b00001#5), (0b00#2, 0b00010#5), (0b00#2, 0b00110#5), (0b00#2, 0b01010#5), (0b00#2, 0b01110#5),
    (0b01#2, 0b00000#5), (0b01#2, 0b00010#5), (0b01#2, 0b00110#5), (0b10#2, 0b00000#5), (0b10#2, 0b00001#5),
    (0b10#2, 0b01000#5), (0b10#2, 0b01001#5)]

section Cvt

variable (hc : (F.fmt, F.rs2) ∉ assignedCvt)
include hc

theorem decodeCvtToS_isReserved (hf : F.fmt = 0b00#2) : (decodeCvtToS F).IsReserved := by
  unfold decodeCvtToS
  split
  case h_6 => exact Decoded.isReserved _
  all_goals next h2 => exact absurd (by rw [hf, h2]; decide) hc

theorem decodeCvtToD_isReserved (hf : F.fmt = 0b01#2) : (decodeCvtToD F).IsReserved := by
  unfold decodeCvtToD
  split
  case h_4 => exact Decoded.isReserved _
  all_goals next h2 => exact absurd (by rw [hf, h2]; decide) hc

theorem decodeCvtToH_isReserved (hf : F.fmt = 0b10#2) : (decodeCvtToH F).IsReserved := by
  unfold decodeCvtToH
  split
  case h_5 => exact Decoded.isReserved _
  all_goals next h2 => exact absurd (by rw [hf, h2]; decide) hc

end Cvt

/-- Funct3 011 is the only code that all three sign and pack groups leave unassigned (R81, R192). -/
theorem signPack_isReserved (h3 : F.f3 = 0b011#3) :
    (byFmt F (decodeSignPackS F) (decodeSignPackD F) (decodeSignPackH F)).IsReserved := by
  refine .byFmt (fun _ => ?_) (fun _ => ?_) fun _ => ?_
  · rw [decodeSignPackS, h3]; exact Decoded.isReserved _
  · rw [decodeSignPackD, h3]; exact Decoded.isReserved _
  · rw [decodeSignPackH, h3]; exact Decoded.isReserved _

theorem sqrt_isReserved (h5 : F.funct5 = 0b01011#5) (h2 : F.rs2 ≠ 0b00000#5) : (decodeOpFp F).IsReserved := by
  simp only [decodeOpFp, h5]
  exact .byFmt (fun _ => decodeSqrt_isReserved h2) (fun _ => decodeSqrt_isReserved h2) fun _ => decodeSqrt_isReserved h2

theorem helperGroup_isReserved :
    (F.f3 = 0b000#3 → F.rs2 ≠ 0b00000#5 → (decodeHelperGroup F).IsReserved) ∧
    (F.f3 = 0b001#3 → F.rs2 ≠ 0b00001#5 → F.rs2 ≠ 0b00010#5 → (decodeHelperGroup F).IsReserved) ∧
    (F.f3 ≠ 0b000#3 → F.f3 ≠ 0b001#3 → (decodeHelperGroup F).IsReserved) := by
  refine ⟨fun h3 h2 => ?_, fun h3 h1 h2 => ?_, fun h0 h1 => ?_⟩
  · rw [decodeHelperGroup, h3]
    exact decodeMoveToF_isReserved h2
  · rw [decodeHelperGroup, h3]
    exact .byFmt (fun _ => decodeHelper_isReserved h1 h2) (fun _ => decodeHelper_isReserved h1 h2)
      fun _ => decodeHelper_isReserved h1 h2
  · unfold decodeHelperGroup
    split
    case h_1 h => exact absurd h h0
    case h_2 h => exact absurd h h1
    case h_3 => exact byFmt_unassigned_isReserved

theorem decodePkGroup_isReserved (h3 : F.f3 = 0b001#3 ∨ F.f3 = 0b010#3)
    (h7 : F.f7 ∉ [0b0000111#7, 0b0001111#7, 0b0010111#7, 0b0011111#7]) : (decodePkGroup F).IsReserved := by
  rcases h3 with h3 | h3 <;>
  · rw [decodePkGroup, h3]
    exact decodePk_isReserved h7

/-! ### Words outside the spec (R70, R185, R303) -/

theorem decodeMinMax_outside (h3 : F.f3 = 0b000#3 ∨ F.f3 = 0b001#3) :
    decodeMinMax F .notOfThisSpec .notOfThisSpec = .notOfThisSpec := by
  rcases h3 with h3 | h3 <;> (rw [decodeMinMax, h3]; rfl)

theorem decodeCompare_outside {le lt eq : Decoded} (h3 : F.f3 ∉ [0b000#3, 0b001#3, 0b010#3]) :
    decodeCompare F le lt eq = .notOfThisSpec := by
  unfold decodeCompare
  split
  case h_4 => rfl
  all_goals next h => exact absurd (by rw [h]; decide) h3

theorem compare_outside (h5 : F.funct5 = 0b10100#5) (hf : F.fmt ≠ 0b11#2)
    (h3 : F.f3 ∉ [0b000#3, 0b001#3, 0b010#3]) : decodeOpFp F = .notOfThisSpec := by
  simp only [decodeOpFp, h5]
  exact byFmt_outside hf (fun _ => decodeCompare_outside h3) (fun _ => decodeCompare_outside h3)
    fun _ => decodeCompare_outside h3

theorem decodeMoveFromF_outside (h : (F.rs2, F.f3) ≠ (0b00000#5, 0b000#3)) :
    decodeMoveFromF F = .notOfThisSpec := by
  unfold decodeMoveFromF
  split
  case h_1 h2 h3 => exact absurd (by rw [h2, h3]) h
  case h_2 => rfl

theorem decodeHelperGroup_outside (h3 : F.f3 = 0b000#3) (h2 : F.rs2 = 0b00000#5)
    (hf : F.fmt = 0b00#2 ∨ F.fmt = 0b10#2) : decodeHelperGroup F = .notOfThisSpec := by
  rcases hf with hf | hf <;> simp only [decodeHelperGroup, h3, decodeMoveToF, h2, byFmt, hf]

theorem decodePkGroup_outside (h1 : F.f3 ≠ 0b001#3) (h2 : F.f3 ≠ 0b010#3) : decodePkGroup F = .notOfThisSpec := by
  unfold decodePkGroup
  split
  case h_1 h => exact absurd h h1
  case h_2 h => exact absurd h h2
  case h_3 => rfl

theorem decodeOp_outside
    (h : (F.f7, F.f3) ∉ [(0b0000100#7, 0b100#3), (0b0100100#7, 0b100#3), (0b0100000#7, 0b000#3)]) :
    decodeOp F = .notOfThisSpec := by
  unfold decodeOp
  split
  case h_4 => rfl
  all_goals next h7 h3 => exact absurd (by rw [h7, h3]; decide) h

theorem decodeShuffle_outside (h : (F.f7.extractLsb' 3 4, F.f3) ∉ [(0b0100#4, 0b001#3), (0b0110#4, 0b001#3)]) :
    decodeShuffle F = .notOfThisSpec := by
  unfold decodeShuffle
  split
  case h_3 => rfl
  all_goals next h4 h3 => exact absurd (by rw [h4, h3]; decide) h

theorem decodeImport_outside {c : XReg → XReg → BitVec 12 → Instr} (h3 : F.f3 ≠ 0b000#3) :
    decodeImport F c = .notOfThisSpec := by
  unfold decodeImport
  split
  case h_1 h => exact absurd h h3
  case h_2 => rfl

/-! ### Unassigned words and words outside, by opcode -/

theorem opFp_isReserved (ho : F.op = 0b1010011#7) :
    (F.funct5 = 0b00100#5 → F.f3 = 0b011#3 → (decode F.word).IsReserved) ∧
    (F.funct5 = 0b00100#5 → F.fmt = 0b10#2 → F.f3.getLsbD 2 = true → (decode F.word).IsReserved) ∧
    (F.funct5 = 0b00101#5 → F.f3 ≠ 0b000#3 → F.f3 ≠ 0b001#3 → (decode F.word).IsReserved) ∧
    (F.funct5 = 0b01000#5 → (F.fmt, F.rs2) ∉ assignedCvt → (decode F.word).IsReserved) ∧
    (F.funct5 = 0b01011#5 → F.rs2 ≠ 0b00000#5 → (decode F.word).IsReserved) ∧
    (F.funct5 = 0b11110#5 →
      (F.f3 = 0b000#3 → F.rs2 ≠ 0b00000#5 → (decode F.word).IsReserved) ∧
      (F.f3 = 0b001#3 → F.rs2 ≠ 0b00001#5 → F.rs2 ≠ 0b00010#5 → (decode F.word).IsReserved) ∧
      (F.f3 ≠ 0b000#3 → F.f3 ≠ 0b001#3 → (decode F.word).IsReserved)) := by
  refine ⟨fun h5 h3 => ?_, fun h5 hf h3 => ?_, fun h5 h0 h1 => ?_, fun h5 hc => ?_, fun h5 h2 => ?_, fun h5 => ?_⟩
  · rw [decode_signPack ho h5]
    exact signPack_isReserved h3
  · rw [decode_signPack ho h5, byFmt, hf]
    exact decodeSignPackH_isReserved h3
  · rw [decode_minMax ho h5]
    exact .byFmt (fun _ => decodeMinMax_isReserved h0 h1) (fun _ => decodeMinMax_isReserved h0 h1)
      fun _ => decodeMinMax_isReserved h0 h1
  · rw [decode_cvt ho h5]
    exact .byFmt (decodeCvtToS_isReserved hc) (decodeCvtToD_isReserved hc) (decodeCvtToH_isReserved hc)
  · rw [decode_opFp ho]
    exact sqrt_isReserved h5 h2
  · rw [decode_helperGroup ho h5]
    exact helperGroup_isReserved

/-- Settles O8: each group's unassigned codes and each opcode's unlisted ones, by the decoder's functions. -/
theorem unassignedWords : Obligations.UnassignedWords := by
  intro F reserved outside
  refine ⟨opFp_isReserved, fun ho h3 h7 => ?_, decode_otherOpcode, fun ho => ⟨fun h5 hf h3 => ?_, fun h5 hf h3 => ?_,
    fun h5 hf h => ?_, fun h5 h3 h2 hf => ?_, decode_otherFunct5 ho⟩, fun ho hf => ?_, fun ho h1 h2 => ?_,
    fun ho h => ?_, fun ho h => ?_, fun ho h3 => ?_⟩
  · obtain ⟨why, hd⟩ := decodePkGroup_isReserved h3 h7
    exact ⟨why, (decode_pk ho).trans hd⟩
  · exact (decode_minMax ho h5).trans ((byFmt_d hf).trans (decodeMinMax_outside h3))
  · exact (decode_opFp ho).trans (compare_outside h5 hf h3)
  · exact (decode_moveFromF ho h5).trans (byFmt_outside hf (fun _ => rfl)
      (fun hd => decodeMoveFromF_outside fun e => h (by rw [hd, e])) fun _ => rfl)
  · exact (decode_helperGroup ho h5).trans (decodeHelperGroup_outside h3 h2 hf)
  · obtain ⟨s, h, hd⟩ := decode_fma ho
    exact hd.trans (byFmt_d hf)
  · exact (decode_pk ho).trans (decodePkGroup_outside h1 h2)
  · exact (decode_op ho).trans (decodeOp_outside h)
  · exact (decode_shuffle ho).trans (decodeShuffle_outside h)
  · obtain ⟨c, hd⟩ := decode_import ho
    exact hd.trans (decodeImport_outside h3)

end Sys2Proof
end

section
/-! PROOFS of the encoding family, fourth part: a 2x code runs the X form (R121, R209, R210, R231), and an instruction
of an absent feature is illegal (R80, R149, R302). -/

namespace Sys2Proof.Machine

/-! ### Two spellings of one word (R78, R121)

An operation uses the instruction it is part of for the 32 bits of an exception alone (R302, R306). -/

/-- A 2x code selects the X form (R14). -/
theorem State.rmMeaning_bits (s : State) (x : XRm) : s.rmMeaning x.bits = .wide x :=
  rmMeaning_wide_iff.2 (XRm.ofBits_bits x)

/-- With a 2x code an instruction does what its X form does. -/
theorem exec_wide {i j : Instr} {s : State} {x : XRm} {X X' : XRm → Result} {k : RMode → Result}
    (hi : exec i s = withRoundingOrX i x.bits s X k) (hj : exec j s = X' x) (hX : X x = X' x) : exec i s = exec j s :=
  calc exec i s = X x := hi.trans (withRoundingOrX_wide (s.rmMeaning_bits x))
    _ = X' x := hX
    _ = exec j s := hj.symm

section SameWord

variable {i j : Instr} {s : State} {rd rs1 rs2 : FReg} {x : XRm} {fmt : Fmt} {k : RMode → Result}
  (h : encode i = encode j)
include h

theorem illegal_congr : illegal i s = illegal j s := by rw [illegal, illegal, h]

theorem emulate_congr : emulate i s = emulate j s := by rw [emulate, emulate, h]

theorem requiring_congr {c : Bool} {r r' : Result} (hr : r = r') : requiring c i s r = requiring c j s r' := by
  rw [requiring, requiring, illegal_congr h, hr]

theorem exec_arith_wide {op : ArithOp}
    (hi : exec i s = withRoundingOrX i x.bits s (fun x => arithX i op fmt rd rs1 rs2 x s) k)
    (hj : exec j s = arithX j op fmt rd rs1 rs2 x s) : exec i s = exec j s :=
  exec_wide hi (X' := fun x => arithX j op fmt rd rs1 rs2 x s) hj (requiring_congr h rfl)

theorem exec_widen_wide (hi : exec i s = withRoundingOrX i x.bits s (fun x => widenX i fmt rd rs1 x s) k)
    (hj : exec j s = widenX j fmt rd rs1 x s) : exec i s = exec j s :=
  exec_wide hi (X' := fun x => widenX j fmt rd rs1 x s) hj (requiring_congr h rfl)

theorem exec_narrow_wide (hi : exec i s = withRoundingOrX i x.bits s (fun x => narrowX i fmt rd rs1 x s) k)
    (hj : exec j s = narrowX j fmt rd rs1 x s) : exec i s = exec j s :=
  exec_wide hi (X' := fun x => narrowX j fmt rd rs1 x s) hj (requiring_congr h rfl)

theorem exec_sqrt_wide (hi : exec i s = withRoundingOrX i x.bits s (fun x => sqrtX i fmt rd rs1 x s) k)
    (hj : exec j s = sqrtX j fmt rd rs1 x s) : exec i s = exec j s :=
  exec_wide hi (X' := fun x => sqrtX j fmt rd rs1 x s) hj (requiring_congr h (by rw [emulate_congr h]))

end SameWord

/-- Settles O32: the field selects the X form, whose exceptions name the one word that both spellings are. -/
theorem wideRmSelectsXForm : Obligations.WideRmSelectsXForm := by
  intro s rd rs1 rs2 x
  refine ⟨?_, ?_, ?_, ?_, ?_, ?_, ?_, ?_, ?_, ?_, ?_, ?_, ?_, ?_, ?_, ?_, ?_, ?_⟩
  iterate 12 exact exec_arith_wide rfl rfl rfl
  · exact exec_widen_wide rfl rfl rfl
  · exact exec_narrow_wide rfl rfl rfl
  · exact exec_widen_wide rfl rfl rfl
  · exact exec_narrow_wide rfl rfl rfl
  · exact exec_sqrt_wide rfl rfl rfl
  · exact exec_sqrt_wide rfl rfl rfl

/-! ### Features (R80, R149, R302) -/

/-- The features an instruction needs are there: those of FLX, FSX, the X forms, the packs, the helpers and the misc
operations (R80, R136, R149). -/
def featuresPresent (p : Params) : Instr → Bool
  | .flx .. => p.hasFlx
  | .fsx .. => p.hasFsx
  | .paddxS .. | .psubxS .. | .pmulxS .. | .paddxD .. | .psubxD .. | .pmulxD .. => p.hasX128
  | .paddxH .. | .psubxH .. | .pmulxH .. => p.hasX128 && p.hasX128H
  | .pdivxS .. | .pdivxD .. => p.hasX128 && p.hasPdivx
  | .pdivxH .. => p.hasX128 && p.hasX128H && p.hasPdivx
  | .pcvtxSH .. | .pcvtxHS .. | .pcvtxSBf16 .. | .pcvtxBf16S .. | .psqrtxS .. | .psqrtxD .. => p.hasX128
  | .fpkbbH .. | .fpkbtH .. | .fpktbH .. | .fpkttH .. | .fpkbbS .. | .fpkbtS .. | .fpktbS .. | .fpkttS .. => p.hasFpk
  | .prcpaS .. | .frcpaD .. | .prcpaH .. | .psqrtaS .. | .fsqrtaD .. | .psqrtaH .. => p.hasHelper
  | .pack .. | .packu .. | .pkbb16 .. | .pkbt16 .. | .pktb16 .. | .pktt16 .. | .pkbb32 .. | .pkbt32 .. | .pktb32 ..
  | .pktt32 .. | .pshufW .. | .pfshufW .. => p.hasMisc
  | _ => true

/-- A check of features and pairs fails when the features are absent. -/
theorem illegal_of_requiring {i : Instr} {s : State} {c pairs : Bool} {r : Result}
    (h : exec i s = requiring (c && pairs) i s r) (hc : c = false) : RaisesIllegal i s :=
  h.trans (requiring_false (by rw [hc, Bool.false_and]))

/-- Every instruction with a feature checks it first. -/
theorem raisesIllegal_of_absent {i : Instr} {s : State} (h : featuresPresent s.params i = false) :
    RaisesIllegal i s := by
  cases i with
  | flx | fsx => exact illegal_of_requiring rfl h
  | paddxS | psubxS | pmulxS | paddxD | psubxD | pmulxD | paddxH | psubxH | pmulxH | pdivxS | pdivxD | pdivxH =>
    exact illegal_of_requiring rfl (by simpa [arithXPresent, featuresPresent] using h)
  | pcvtxSH | pcvtxHS | pcvtxSBf16 | pcvtxBf16S | psqrtxS | psqrtxD => exact illegal_of_requiring rfl h
  | fpkbbH | fpkbtH | fpktbH | fpkttH | fpkbbS | fpkbtS | fpktbS | fpkttS => exact requiring_false h
  | prcpaS | frcpaD | prcpaH | psqrtaS | fsqrtaD | psqrtaH => exact requiring_false h
  | pack | packu | pkbb16 | pkbt16 | pktb16 | pktt16 | pkbb32 | pkbt32 | pktb32 | pktt32 | pshufW | pfshufW =>
    exact requiring_false h
  | _ => cases h

/-- Settles O34: in each list, the instructions need the feature that is absent. -/
theorem absentFeatureIsIllegal : Obligations.AbsentFeatureIsIllegal := by
  intro s
  have absent {l : List Instr} (h : l.all (fun i => !featuresPresent s.params i) = true) :
      ∀ i ∈ l, RaisesIllegal i s :=
    fun i hi => raisesIllegal_of_absent (by simpa using List.all_eq_true.1 h i hi)
  refine ⟨fun h rd rs1 imm => raisesIllegal_of_absent h, fun h rs1 imm rs2 => raisesIllegal_of_absent h,
    fun h rd rs1 rs2 x => absent ?_, fun h rd rs1 rs2 x => absent ?_, fun h rd rs1 rs2 x => absent ?_,
    fun h rd rs1 rs2 => absent ?_, fun h rd rs1 => absent ?_, fun h rd rs1 rs2 => absent ?_,
    fun h rd rs1 imm => ⟨raisesIllegal_of_absent h, raisesIllegal_of_absent h⟩⟩
  all_goals simp [featuresPresent, h]

end Sys2Proof.Machine
end

section
/-! PROOFS of the arithmetic family (41_arith.md): packed add, subtract, multiply and divide, lane by lane, in one
register and in a pair (R120 to R147). -/

namespace Sys2Proof.Machine

variable {i : Instr} {s : State} {op : ArithOp} {fmt : Fmt} {rd rs1 rs2 : FReg} {rm : BitVec 3} {m : RMode} {x : XRm}

/-! ### One register (R120, R121) -/

/-- Finishing with a packed result writes every lane and accrues the flags of all of them. -/
theorem finishFp_packed2_laneOp2 {f : BitVec fmt.width → BitVec fmt.width → FpResult fmt}
    (h : exec i s = s.finishFp rd (packed2 fmt f (s.getF rs1) (s.getF rs2)).1
      (packed2 fmt f (s.getF rs1) (s.getF rs2)).2) : LaneOp2 i fmt (lanesOf fmt) f rd rs1 rs2 s :=
  finishFp_writesF h fun _ hk => fmtLane_packed2 f _ _ hk

/-- The 64-bit template in a mode that is no 2x code. -/
theorem arith64_laneOp2 (hexec : exec i s = arith64 i op fmt rd rs1 rs2 rm s) (hrm : s.rmMeaning rm = .narrow m) :
    LaneOp2 i fmt (lanesOf fmt) (arithFn (numericsOf s.params) op fmt m) rd rs1 rs2 s :=
  finishFp_packed2_laneOp2 (hexec.trans (withRoundingOrX_narrow hrm))

/-- Settles O35: the ten instructions of the 64-bit template. -/
theorem packedArithmetic : Obligations.PackedArithmetic := by
  intro s rd rs1 rs2 rm m hrm
  exact ⟨arith64_laneOp2 (exec_paddS s rd rs1 rs2 rm) hrm, arith64_laneOp2 (exec_psubS s rd rs1 rs2 rm) hrm,
    arith64_laneOp2 (exec_pmulS s rd rs1 rs2 rm) hrm, arith64_laneOp2 (exec_paddH s rd rs1 rs2 rm) hrm,
    arith64_laneOp2 (exec_psubH s rd rs1 rs2 rm) hrm, arith64_laneOp2 (exec_pmulH s rd rs1 rs2 rm) hrm,
    arith64_laneOp2 (exec_faddD s rd rs1 rs2 rm) hrm, arith64_laneOp2 (exec_fsubD s rd rs1 rs2 rm) hrm,
    arith64_laneOp2 (exec_fmulD s rd rs1 rs2 rm) hrm, arith64_laneOp2 (exec_fdivD s rd rs1 rs2 rm) hrm⟩

/-! ### Division of every lane (R131) -/

/-- What PDIV does with a packed unit. -/
theorem packedDivide_simd (hrm : s.rmMeaning rm = .narrow m) (himpl : s.params.pdivImpl = .simd) :
    packedDivide i fmt rd rs1 rs2 rm s =
      s.finishFp rd (s.packedArith .div fmt m (s.getF rs1) (s.getF rs2)).1
        (s.packedArith .div fmt m (s.getF rs1) (s.getF rs2)).2 := by
  rw [packedDivide, withRoundingOrX_narrow hrm]
  simp only [himpl]

/-- With a packed unit PDIV divides every lane, and so it does when an invisible emulator completes packed operands; a
machine has the one or the other. -/
theorem packedDivide_laneOp2 (hexec : exec i s = packedDivide i fmt rd rs1 rs2 rm s)
    (hrm : s.rmMeaning rm = .narrow m)
    (h : s.params.pdivImpl = .simd ∨
      (s.params.emulationVisible = false ∧ (highNaN fmt (s.getF rs1) && highNaN fmt (s.getF rs2)) = false)) :
    LaneOp2 i fmt (lanesOf fmt) ((numericsOf s.params).div fmt m) rd rs1 rs2 s := by
  refine finishFp_packed2_laneOp2 (hexec.trans ?_)
  cases himpl : s.params.pdivImpl with
  | simd => exact packedDivide_simd hrm himpl
  | scalarOrEmulate =>
    obtain ⟨hv, hn⟩ := h.resolve_left (by simp [himpl])
    rw [packedDivide_scalarOrEmulate hrm himpl, hn, if_neg Bool.false_ne_true, hv, if_neg Bool.false_ne_true]
    rfl

/-- Settles O36: PDIV.S and PDIV.H. (The obligation's own name is that of the model's operation.) -/
theorem packedDivide_everyLane : Obligations.PackedDivide := by
  intro s rd rs1 rs2 rm m hrm
  exact ⟨packedDivide_laneOp2 (exec_pdivS s rd rs1 rs2 rm) hrm,
    packedDivide_laneOp2 (exec_pdivH s rd rs1 rs2 rm) hrm⟩

/-! ### Pairs (R136) -/

/-- The features an X form needs, for its operation and its format. -/
theorem arithXPresent_iff {p : Params} : arithXPresent p op fmt = true ↔
    p.hasX128 = true ∧ (fmt = .H → p.hasX128H = true) ∧ (op = .div → p.hasPdivx = true) := by
  simp [arithXPresent, and_assoc, or_iff_not_imp_right]

/-- The checks of the X template pass for even pairs of a present feature. -/
theorem arithX_legal (hp : arithXPresent s.params op fmt = true) (hrd : rd.getLsbD 0 = false)
    (hrs1 : rs1.getLsbD 0 = false) (hrs2 : rs2.getLsbD 0 = false) :
    (arithXPresent s.params op fmt && (evenReg rd && evenReg rs1 && evenReg rs2)) = true := by
  rw [hp, evenReg, evenReg, evenReg, hrd, hrs1, hrs2]; rfl

/-- The X template on a legal form: every lane of both halves, with the flags of both. -/
theorem arithX_pairOp2 (hexec : exec i s = arithX i op fmt rd rs1 rs2 x s)
    (hlegal : (arithXPresent s.params op fmt && (evenReg rd && evenReg rs1 && evenReg rs2)) = true) :
    PairOp2 i fmt (lanesOf fmt) (arithFn (numericsOf s.params) op fmt (XRm.rounding x)) rd rs1 rs2 s :=
  finishPair_writesPair (hexec.trans (requiring_true hlegal)) (fun _ hk => fmtLane_packed2 _ _ _ hk)
    fun _ hk => fmtLane_packed2 _ _ _ hk

/-- Settles O38: the twelve X forms, each with the features that its format and its operation need. -/
theorem pairArithmetic : Obligations.PairArithmetic := by
  intro s rd rs1 rs2 x hx hrd hrs1 hrs2
  have pair {i : Instr} {op : ArithOp} {fmt : Fmt} (hexec : exec i s = arithX i op fmt rd rs1 rs2 x s)
      (hH : fmt = .H → s.params.hasX128H = true) (hdiv : op = .div → s.params.hasPdivx = true) :=
    arithX_pairOp2 hexec (arithX_legal (arithXPresent_iff.2 ⟨hx, hH, hdiv⟩) hrd hrs1 hrs2)
  refine ⟨⟨?_, ?_, ?_, ?_, ?_, ?_⟩, fun hH => ⟨?_, ?_, ?_⟩, fun hdiv => ⟨?_, ?_⟩, fun hdiv hH => ?_⟩
  · exact pair (exec_paddxS s rd rs1 rs2 x) nofun nofun
  · exact pair (exec_psubxS s rd rs1 rs2 x) nofun nofun
  · exact pair (exec_pmulxS s rd rs1 rs2 x) nofun nofun
  · exact pair (exec_paddxD s rd rs1 rs2 x) nofun nofun
  · exact pair (exec_psubxD s rd rs1 rs2 x) nofun nofun
  · exact pair (exec_pmulxD s rd rs1 rs2 x) nofun nofun
  · exact pair (exec_paddxH s rd rs1 rs2 x) (fun _ => hH) nofun
  · exact pair (exec_psubxH s rd rs1 rs2 x) (fun _ => hH) nofun
  · exact pair (exec_pmulxH s rd rs1 rs2 x) (fun _ => hH) nofun
  · exact pair (exec_pdivxS s rd rs1 rs2 x) nofun fun _ => hdiv
  · exact pair (exec_pdivxD s rd rs1 rs2 x) nofun fun _ => hdiv
  · exact pair (exec_pdivxH s rd rs1 rs2 x) (fun _ => hH) fun _ => hdiv

end Sys2Proof.Machine
end

section
/-! PROOFS of the family of sign injection, compares, minimum and maximum (42_sign_compare_minmax.md): each lane bit by
bit (R160 to R169), 0 or 1 in an integer register (R170 to R179), each lane selected (R180 to R184). -/

namespace Sys2Proof.Machine

variable {i : Instr} {s : State} {fmt : Fmt} {rs1 rs2 : FReg}

/-! ### Sign injection (R160) -/

/-- In every lane of `v` the value bits are those of `a`, and the sign bit is `sign` of those of `a` and `b`. -/
def SignsInjected (fmt : Fmt) (sign : Bool → Bool → Bool) (a b v : Word) : Prop :=
  ∀ k, k < lanesOf fmt → ∀ j, j < fmt.width → (fmtLane fmt k v).getLsbD j =
    if j = fmt.width - 1 then sign ((fmtLane fmt k a).getLsbD j) ((fmtLane fmt k b).getLsbD j)
    else (fmtLane fmt k a).getLsbD j

/-- A lane of the sign mask is its sign bit alone. -/
theorem fmtLane_signMask : ∀ k, k < lanesOf fmt → fmtLane fmt k (signMask fmt) = BitVec.intMin fmt.width := by
  cases fmt <;> decide

theorem getLsbD_signMask {k j : Nat} (hk : k < lanesOf fmt) (hj : j < fmt.width) :
    (signMask fmt).getLsbD (fmt.width * k + j) = decide (j = fmt.width - 1) := by
  have hbit := congrArg (·.getLsbD j) (fmtLane_signMask k hk)
  simp only [fmtLane, getLsbD_lane, hj, decide_true, Bool.true_and, BitVec.getLsbD_intMin] at hbit
  rw [hbit, decide_eq_decide]
  omega

/-- A word that takes the bits under the mask from `sign`, and the others from `a`, has its signs injected. -/
theorem signsInjected_of_signMask {sign : Bool → Bool → Bool} {a b v : Word}
    (h : ∀ j, j < 64 → v.getLsbD j =
      if (signMask fmt).getLsbD j = true then sign (a.getLsbD j) (b.getLsbD j) else a.getLsbD j) :
    SignsInjected fmt sign a b v := by
  intro k hk j hj
  have hplace : fmt.width * k + j < 64 := by
    calc fmt.width * k + j < fmt.width * (k + 1) := by rw [Nat.mul_succ]; omega
      _ ≤ fmt.width * lanesOf fmt := Nat.mul_le_mul_left _ hk
      _ = 64 := width_mul_lanesOf fmt
  simp only [fmtLane, getLsbD_lane, hj, decide_true, Bool.true_and, h _ hplace, getLsbD_signMask hk hj,
    decide_eq_true_eq]

theorem sgnj_signsInjected (fmt : Fmt) (a b : Word) : SignsInjected fmt (fun _ q => q) a b (sgnj fmt a b) :=
  signsInjected_of_signMask fun j hj => by
    cases hm : (signMask fmt).getLsbD j <;> simp [sgnj, hm, hj, -BitVec.getLsbD_eq_getElem]

theorem sgnjn_signsInjected (fmt : Fmt) (a b : Word) : SignsInjected fmt (fun _ q => !q) a b (sgnjn fmt a b) :=
  signsInjected_of_signMask fun j hj => by
    cases hm : (signMask fmt).getLsbD j <;> simp [sgnjn, hm, hj, -BitVec.getLsbD_eq_getElem]

theorem sgnjx_signsInjected (fmt : Fmt) (a b : Word) : SignsInjected fmt (fun p q => p ^^ q) a b (sgnjx fmt a b) :=
  signsInjected_of_signMask fun j _ => by
    cases hm : (signMask fmt).getLsbD j <;> simp [sgnjx, hm]

/-- Settles O42: each of the three operations in .S, .D and .H. -/
theorem signInjection : Obligations.SignInjection := by
  intro s rd rs1 rs2
  exact ⟨finishF_writesF (exec_psgnjS s rd rs1 rs2) (sgnj_signsInjected .S _ _),
    finishF_writesF (exec_psgnjnS s rd rs1 rs2) (sgnjn_signsInjected .S _ _),
    finishF_writesF (exec_psgnjxS s rd rs1 rs2) (sgnjx_signsInjected .S _ _),
    finishF_writesF (exec_fsgnjD s rd rs1 rs2) (sgnj_signsInjected .D _ _),
    finishF_writesF (exec_fsgnjnD s rd rs1 rs2) (sgnjn_signsInjected .D _ _),
    finishF_writesF (exec_fsgnjxD s rd rs1 rs2) (sgnjx_signsInjected .D _ _),
    finishF_writesF (exec_psgnjH s rd rs1 rs2) (sgnj_signsInjected .H _ _),
    finishF_writesF (exec_psgnjnH s rd rs1 rs2) (sgnjn_signsInjected .H _ _),
    finishF_writesF (exec_psgnjxH s rd rs1 rs2) (sgnjx_signsInjected .H _ _)⟩

/-! ### Compares (R170) -/

/-- A compare writes 0 or 1 for its low elements, and accrues their flags. -/
theorem compareLow_writesX {op : BitVec fmt.width → BitVec fmt.width → Bool × FpFlags} {rd : XReg}
    {a b : BitVec fmt.width} (hexec : exec i s = compareLow fmt op rd rs1 rs2 s)
    (ha : fmtLane fmt 0 (s.getF rs1) = a) (hb : fmtLane fmt 0 (s.getF rs2) = b) :
    WritesX i s rd (if (op a b).1 then 1#64 else 0#64) (op a b).2 := by
  subst ha hb
  exact finishCmp_writesX hexec

/-- Settles O43: the three relations in .S, .D and .H; the low .D element is the register. -/
theorem compares : Obligations.Compares := by
  intro s rd rs1 rs2
  exact ⟨compareLow_writesX (exec_fleS s rd rs1 rs2) rfl rfl, compareLow_writesX (exec_fltS s rd rs1 rs2) rfl rfl,
    compareLow_writesX (exec_feqS s rd rs1 rs2) rfl rfl,
    compareLow_writesX (exec_fleD s rd rs1 rs2) (fmtLane_D_zero _) (fmtLane_D_zero _),
    compareLow_writesX (exec_fltD s rd rs1 rs2) (fmtLane_D_zero _) (fmtLane_D_zero _),
    compareLow_writesX (exec_feqD s rd rs1 rs2) (fmtLane_D_zero _) (fmtLane_D_zero _),
    compareLow_writesX (exec_fleH s rd rs1 rs2) rfl rfl, compareLow_writesX (exec_fltH s rd rs1 rs2) rfl rfl,
    compareLow_writesX (exec_feqH s rd rs1 rs2) rfl rfl⟩

/-! ### Minimum and maximum (R180) -/

/-- Settles O44: a selection in every lane is a packed binary operation. -/
theorem minMax : Obligations.MinMax := by
  intro s rd rs1 rs2
  exact ⟨finishFp_packed2_laneOp2 (exec_pminS s rd rs1 rs2), finishFp_packed2_laneOp2 (exec_pmaxS s rd rs1 rs2),
    finishFp_packed2_laneOp2 (exec_pminH s rd rs1 rs2), finishFp_packed2_laneOp2 (exec_pmaxH s rd rs1 rs2)⟩

end Sys2Proof.Machine
end

section
/-! PROOFS of the pack family (43_pack.md): the packs, half above half (R190 to R199), and the sequences of conversions and
a pack that equal one conversion of a pair (R202, R219). -/

namespace Sys2Proof.Machine

variable {s t : State} {rd rs1 rs2 : FReg} {rm rm' : BitVec 3} {m m' : RMode} {src : Fmt} {x : XRm}

/-! ### The packs (R190, R191) -/

/-- A value is `p` above `q`, with zeros above both. -/
def IsPack (w : Nat) (p q : BitVec w) (v : Word) : Prop :=
  lane w 1 v = p ∧ lane w 0 v = q ∧ ∀ k, 2 * w ≤ k → v.getLsbD k = false

theorem IsPack.low {w : Nat} {p q : BitVec w} {v : Word} (h : IsPack w p q v) : lane w 0 v = q := h.2.1

theorem isPack_append {w : Nat} (hw : 2 * w ≤ 64) (p q : BitVec w) : IsPack w p q ((p ++ q).setWidth 64) := by
  refine ⟨BitVec.eq_of_getLsbD_eq fun j hj => ?_, BitVec.eq_of_getLsbD_eq fun j hj => ?_, fun k hk => ?_⟩
  · rw [getLsbD_lane, BitVec.getLsbD_setWidth, BitVec.getLsbD_append]
    simp [hj, show w + j < 64 by omega, -BitVec.getLsbD_eq_getElem]
  · rw [getLsbD_lane, BitVec.getLsbD_setWidth, BitVec.getLsbD_append]
    simp [hj, show j < 64 by omega, -BitVec.getLsbD_eq_getElem]
  · rw [BitVec.getLsbD_setWidth, BitVec.getLsbD_of_ge _ _ (by omega), Bool.and_false]

/-- Two halves of a register leave nothing above them. -/
theorem isPack_append_word (p q : BitVec 32) : IsPack 32 p q (p ++ q) := by
  rw [← BitVec.setWidth_eq (p ++ q)]
  exact isPack_append (by decide) p q

section Pack

variable {i : Instr} {a b : Bool}

theorem packS_isPack (hexec : exec i s = packS i a b rd rs1 rs2 s) (hfpk : s.params.hasFpk = true) :
    WritesF i s rd (IsPack 32 (selS a (s.getF rs1)) (selS b (s.getF rs2))) 0#5 := by
  rw [packS, requiring_true hfpk] at hexec
  exact finishF_writesF hexec (isPack_append_word _ _)

theorem packH_isPack (hexec : exec i s = packH i a b rd rs1 rs2 s) (hfpk : s.params.hasFpk = true) :
    WritesF i s rd (IsPack 16 (selH a (s.getF rs1)) (selH b (s.getF rs2))) 0#5 := by
  rw [packH, requiring_true hfpk] at hexec
  refine finishF_writesF hexec ?_
  have zeros (p q : BitVec 16) : 0#32 ++ p ++ q = (p ++ q).setWidth 64 := by
    rw [BitVec.append_assoc, BitVec.cast_eq, BitVec.setWidth_eq_append (by decide)]
    rfl
  rw [zeros]
  exact isPack_append (by decide) _ _

end Pack

/-- Settles O46: a selection is a lane, so that each form has packed the lanes its name says. -/
theorem packs : Obligations.Packs := by
  intro s rd rs1 rs2 hfpk
  exact ⟨packH_isPack (exec_fpkbbH s rd rs1 rs2) hfpk, packH_isPack (exec_fpkbtH s rd rs1 rs2) hfpk,
    packH_isPack (exec_fpktbH s rd rs1 rs2) hfpk, packH_isPack (exec_fpkttH s rd rs1 rs2) hfpk,
    packS_isPack (exec_fpkbbS s rd rs1 rs2) hfpk, packS_isPack (exec_fpkbtS s rd rs1 rs2) hfpk,
    packS_isPack (exec_fpktbS s rd rs1 rs2) hfpk, packS_isPack (exec_fpkttS s rd rs1 rs2) hfpk⟩

/-! ### Conversions of two lanes in two states -/

theorem State.rmMeaning_congr (h : t.frm = s.frm) (rm : BitVec 3) : t.rmMeaning rm = s.rmMeaning rm := by
  rw [State.rmMeaning, State.rmMeaning, h]

theorem State.widenPair_congr (h : t.params = s.params) (src : Fmt) (m : RMode) (v : Word) (k : Nat) :
    t.widenPair src m v k = s.widenPair src m v k := by
  simp only [State.widenPair, State.cvtLane, h]

theorem State.narrowPair_congr (h : t.params = s.params) (dst : Fmt) (m : RMode) (v : Word) :
    t.narrowPair dst m v = s.narrowPair dst m v := by
  simp only [State.narrowPair, State.cvtLane, h]

/-- The mode does not affect a conversion of 16-bit lanes to Binary32 lanes (R202). -/
theorem State.widenPair_mode (hw : widens .S src = true) (s : State) (m m' : RMode) (v : Word) (k : Nat) :
    s.widenPair src m v k = s.widenPair src m' v k := by
  have hmode (j : Nat) : s.cvtLane .S src m v j = s.cvtLane .S src m' v j :=
    (numericsOf_cvt_widens _ hw).trans (numericsOf_cvt_widens _ hw).symm
  simp only [State.widenPair, hmode]

/-! ### PCVT and PCVTHI together (R219) -/

section Widen

variable {i : Instr}

theorem widenLow_narrow (hrm : s.rmMeaning rm = .narrow m) :
    widenLow i src rd rs1 rm s =
      s.finishFp rd (s.widenPair src m (s.getF rs1) 0).1 (s.widenPair src m (s.getF rs1) 0).2 :=
  withRoundingOrX_narrow hrm

theorem widenHigh_narrow (hrm : s.rmMeaning rm = .narrow m) :
    widenHigh i src rd rs1 rm s =
      s.finishFp rd (s.widenPair src m (s.getF rs1) 2).1 (s.widenPair src m (s.getF rs1) 2).2 :=
  withRounding_narrow hrm

/-- What a PCVTX to Binary32 lanes that completes has done. -/
theorem widenX_completed (h : widenX i src rd rs1 x s = .next t) (ht : t.trap = none) :
    s.finishPair rd (s.widenPair src (XRm.rounding x) (s.getF rs1) 0).1 (s.widenPair src (XRm.rounding x) (s.getF rs1) 2).1
      ((s.widenPair src (XRm.rounding x) (s.getF rs1) 0).2 ||| (s.widenPair src (XRm.rounding x) (s.getF rs1) 2).2) =
      .next t :=
  requiring_completed h ht

/-- PCVT to the even register leaves the source to PCVTHI, which adds its lanes and its flags. -/
theorem widenX_eq_low_high {lo hi : Instr} (hw : widens .S src = true) (hrm : s.rmMeaning rm = .narrow m)
    (hrm' : s.rmMeaning rm' = .narrow m') (hlo : exec lo s = widenLow lo src rd rs1 rm s)
    (hhi : ∀ u, exec hi u = widenHigh hi src (highReg rd) rs1 rm' u) (hne : rs1 ≠ rd)
    (h : widenX i src rd rs1 x s = .next t) (ht : t.trap = none) :
    ∃ u v, exec lo s = .next u ∧ exec hi u = .next v ∧ v.f = t.f ∧ v.fflags = t.fflags := by
  cases widenX_completed h ht
  rw [widenLow_narrow hrm, s.widenPair_mode hw m (XRm.rounding x)] at hlo
  set r := s.widenPair src (XRm.rounding x) (s.getF rs1) 0
  set u := ((s.setF rd r.1).accrue r.2).advance with hu
  have hrmu : u.rmMeaning rm' = .narrow m' := (State.rmMeaning_congr (by simp [hu]) rm').trans hrm'
  have hsrc : u.getF rs1 = s.getF rs1 := by simp [hu, State.getF_setF_ne _ hne]
  have hhi := hhi u
  rw [widenHigh_narrow hrmu, hsrc, State.widenPair_congr (s := s) (by simp [hu]),
    s.widenPair_mode hw m' (XRm.rounding x)] at hhi
  exact ⟨u, _, hlo, hhi, rfl, BitVec.or_assoc ..⟩

end Widen

/-! ### Two PCVT.H.S and a pack (R219) -/

theorem execPcvtHS_narrow (hrm : s.rmMeaning rm = .narrow m) :
    exec (.pcvtHS rd rs1 rm) s = s.finishFp rd
      (s.params.cvtNarrowHigh ++ (s.narrowPair .H m (s.getF rs1)).1.setWidth 32)
      (s.narrowPair .H m (s.getF rs1)).2 :=
  withRoundingOrX_narrow hrm

theorem execFpkbbS_present (h : s.params.hasFpk = true) :
    exec (.fpkbbS rd rs1 rs2) s = s.finishF rd (lane 32 0 (s.getF rs1) ++ lane 32 0 (s.getF rs2)) :=
  requiring_true h

/-- What a PCVTX.H.S that completes has done. -/
theorem execPcvtxHS_completed (h : exec (.pcvtxHS rd rs1 x) s = .next t) (ht : t.trap = none) :
    s.finishFp rd
      ((s.narrowPair .H (XRm.rounding x) (s.getF (highReg rs1))).1.setWidth 32 ++
        (s.narrowPair .H (XRm.rounding x) (s.getF rs1)).1.setWidth 32)
      ((s.narrowPair .H (XRm.rounding x) (s.getF rs1)).2 |||
        (s.narrowPair .H (XRm.rounding x) (s.getF (highReg rs1))).2) = .next t :=
  requiring_completed h ht

/-- The first narrowing leaves the odd source to the second, and the pack drops CVT_NARROW_HIGH of both. -/
theorem execPcvtxHS_eq_two_pcvtHS_pack (hrm : s.rmMeaning rm = .narrow (XRm.rounding x)) (hne : highReg rs1 ≠ rd)
    (hfpk : s.params.hasFpk = true) (h : exec (.pcvtxHS rd rs1 x) s = .next t) (ht : t.trap = none) :
    ∃ u v w, exec (.pcvtHS rd rs1 rm) s = .next u ∧ exec (.pcvtHS (highReg rd) (highReg rs1) rm) u = .next v ∧
      exec (.fpkbbS rd (highReg rd) rd) v = .next w ∧ w.getF rd = t.getF rd ∧ w.fflags = t.fflags := by
  cases execPcvtxHS_completed h ht
  set lo := s.narrowPair .H (XRm.rounding x) (s.getF rs1)
  set hi := s.narrowPair .H (XRm.rounding x) (s.getF (highReg rs1))
  set u := ((s.setF rd (s.params.cvtNarrowHigh ++ lo.1.setWidth 32)).accrue lo.2).advance with hu
  set v := ((u.setF (highReg rd) (s.params.cvtNarrowHigh ++ hi.1.setWidth 32)).accrue hi.2).advance with hv
  have hrmu : u.rmMeaning rm = .narrow (XRm.rounding x) := (State.rmMeaning_congr (by simp [hu]) rm).trans hrm
  have hsrc : u.getF (highReg rs1) = s.getF (highReg rs1) := by simp [hu, State.getF_setF_ne _ hne]
  have hparams : u.params = s.params := by simp [hu]
  have hsecond : exec (.pcvtHS (highReg rd) (highReg rs1) rm) u = .next v := by
    rw [execPcvtHS_narrow hrmu, hsrc, State.narrowPair_congr hparams, hparams]
    rfl
  have hhigh : lane 32 0 (v.getF (highReg rd)) = hi.1.setWidth 32 := by
    simp [hv, (isPack_append_word ..).low]
  have hlow : lane 32 0 (v.getF rd) = lo.1.setWidth 32 := by
    simp [hv, hu, State.getF_setF_ne _ (highReg_ne rd).symm, (isPack_append_word ..).low]
  refine ⟨u, v, _, execPcvtHS_narrow hrm, hsecond, execFpkbbS_present (by simpa [hv, hparams] using hfpk), ?_, ?_⟩
  · simp [hhigh, hlow]
  · simp [hv, hu, BitVec.or_assoc]

/-- Settles O50: the two widening formats, each of whose numbers are numbers of Binary32, and the narrowing one. -/
theorem conversionSequences : Obligations.ConversionSequences := by
  intro s t rd rs1 x rm rm' m m' hrm hrm' _ ht
  refine ⟨fun hne _ h => ?_, fun hne _ h => ?_, fun hm hne hfpk h => ?_⟩
  · exact widenX_eq_low_high (by decide) hrm hrm' (exec_pcvtSH s rd rs1 rm)
      (fun u => exec_pcvthiSH u (highReg rd) rs1 rm') hne h ht
  · exact widenX_eq_low_high (by decide) hrm hrm' (exec_pcvtSBf16 s rd rs1 rm)
      (fun u => exec_pcvthiSBf16 u (highReg rd) rs1 rm') hne h ht
  · exact execPcvtxHS_eq_two_pcvtHS_pack (hm ▸ hrm) hne hfpk h ht

end Sys2Proof.Machine
end

section
/-! PROOFS of the conversion family (44_convert.md): two lanes to and from Binary32 (R209 to R214), four lanes to and
from a pair (R215 to R218). The scalar conversions are with the NaN-boxed results of the state family. -/

namespace Sys2Proof.Machine

variable {i : Instr} {s : State} {src dst : Fmt} {rd rs1 : FReg} {rm : BitVec 3} {m : RMode} {x : XRm}

/-! ### The lanes of a value put together from halves (R209, R210) -/

/-- A lane below bit 32 is a lane of the lower half. -/
theorem lane_append_low {w k n : Nat} (h : w * (k + 1) ≤ 32) (hi : BitVec 32) (y : BitVec n) :
    lane w k (hi ++ y.setWidth 32) = lane w k (y.setWidth 64) := by
  rw [Nat.mul_succ] at h
  refine BitVec.eq_of_getLsbD_eq fun j hj => ?_
  rw [getLsbD_lane, getLsbD_lane, BitVec.getLsbD_append]
  simp [hj, show w * k + j < 32 by omega, show w * k + j < 64 by omega, -BitVec.getLsbD_eq_getElem]

/-- Lanes 2 and 3, of 16 bits, are lanes 0 and 1 of the upper half. -/
theorem lane_append_high {w k n : Nat} (hw : w = 16) (hk : k < 2) (y : BitVec n) (lo : BitVec 32) :
    lane w (k + 2) (y.setWidth 32 ++ lo) = lane w k (y.setWidth 64) := by
  subst hw
  refine BitVec.eq_of_getLsbD_eq fun j hj => ?_
  have hplace : 16 * (k + 2) + j = 32 + (16 * k + j) := by omega
  rw [getLsbD_lane, getLsbD_lane, BitVec.getLsbD_append, hplace]
  simp [hj, show 16 * k + j < 32 by omega, show 16 * k + j < 64 by omega, -BitVec.getLsbD_eq_getElem]

/-- The 16-bit lanes of two results with another half above them. -/
theorem fmtLane_pair_low (hw : dst.width = 16) (hi : BitVec 32) (p q : BitVec dst.width) :
    fmtLane dst 0 (hi ++ (p ++ q).setWidth 32) = q ∧ fmtLane dst 1 (hi ++ (p ++ q).setWidth 32) = p := by
  obtain ⟨hp, hq, -⟩ := isPack_append (by omega) p q
  exact ⟨(lane_append_low (by omega) hi _).trans hq, (lane_append_low (by omega) hi _).trans hp⟩

/-- The 16-bit lanes of two results with another half below them. -/
theorem fmtLane_pair_high (hw : dst.width = 16) (p q : BitVec dst.width) (lo : BitVec 32) :
    fmtLane dst 2 ((p ++ q).setWidth 32 ++ lo) = q ∧ fmtLane dst 3 ((p ++ q).setWidth 32 ++ lo) = p := by
  obtain ⟨hp, hq, -⟩ := isPack_append (by omega) p q
  exact ⟨(lane_append_high hw (by decide) _ lo).trans hq, (lane_append_high hw (by decide) _ lo).trans hp⟩

/-- The Binary32 lanes of two conversions of 16-bit lanes. -/
theorem State.lane_widenPair (s : State) (src : Fmt) (m : RMode) (v : Word) (k : Nat) :
    lane 32 0 (s.widenPair src m v k).1 = (s.cvtLane .S src m v k).1 ∧
      lane 32 1 (s.widenPair src m v k).1 = (s.cvtLane .S src m v (k + 1)).1 := by
  obtain ⟨hhigh, hlow, -⟩ := isPack_append_word (s.cvtLane .S src m v (k + 1)).1 (s.cvtLane .S src m v k).1
  exact ⟨hlow, hhigh⟩

/-! ### Two lanes (R209 to R214) -/

theorem widenLow_writesF (hexec : exec i s = widenLow i src rd rs1 rm s) (hrm : s.rmMeaning rm = .narrow m) :
    let r := fun k => s.cvtLane .S src m (s.getF rs1) k
    WritesF i s rd (fun v => lane 32 0 v = (r 0).1 ∧ lane 32 1 v = (r 1).1) ((r 0).2 ||| (r 1).2) :=
  finishFp_writesF (hexec.trans (widenLow_narrow hrm)) (s.lane_widenPair src m _ 0)

theorem widenHigh_writesF (hexec : exec i s = widenHigh i src rd rs1 rm s) (hrm : s.rmMeaning rm = .narrow m) :
    let r := fun k => s.cvtLane .S src m (s.getF rs1) k
    WritesF i s rd (fun v => lane 32 0 v = (r 2).1 ∧ lane 32 1 v = (r 3).1) ((r 2).2 ||| (r 3).2) :=
  finishFp_writesF (hexec.trans (widenHigh_narrow hrm)) (s.lane_widenPair src m _ 2)

/-- Two results below CVT_NARROW_HIGH (R201 b). -/
theorem narrowLow_writesF (hw : dst.width = 16) (hexec : exec i s = narrowLow i dst rd rs1 rm s)
    (hrm : s.rmMeaning rm = .narrow m) :
    let r := fun k => s.cvtLane dst .S m (s.getF rs1) k
    WritesF i s rd
      (fun v => fmtLane dst 0 v = (r 0).1 ∧ fmtLane dst 1 v = (r 1).1 ∧ lane 32 1 v = s.params.cvtNarrowHigh)
      ((r 0).2 ||| (r 1).2) := by
  rw [narrowLow, withRoundingOrX_narrow hrm] at hexec
  obtain ⟨h0, h1⟩ := fmtLane_pair_low hw s.params.cvtNarrowHigh _ _
  obtain ⟨hhigh, -⟩ := isPack_append_word s.params.cvtNarrowHigh _
  exact finishFp_writesF hexec ⟨h0, h1, hhigh⟩

/-- Settles O48: four conversions to Binary32 lanes and two from them. -/
theorem laneConversions : Obligations.LaneConversions := by
  intro s rd rs1 rm m hrm
  exact ⟨widenLow_writesF (exec_pcvtSH s rd rs1 rm) hrm, widenLow_writesF (exec_pcvtSBf16 s rd rs1 rm) hrm,
    widenHigh_writesF (exec_pcvthiSH s rd rs1 rm) hrm, widenHigh_writesF (exec_pcvthiSBf16 s rd rs1 rm) hrm,
    narrowLow_writesF rfl (exec_pcvtHS s rd rs1 rm) hrm, narrowLow_writesF rfl (exec_pcvtBf16S s rd rs1 rm) hrm⟩

/-! ### Four lanes and a pair (R215 to R218) -/

/-- The check of PCVTX passes for an even pair with the 128-bit feature. -/
theorem pcvtx_legal {r : FReg} (hx : s.params.hasX128 = true) (hr : r.getLsbD 0 = false) :
    (s.params.hasX128 && evenReg r) = true := by
  rw [hx, evenReg, hr]; rfl

theorem widenX_writesPair (hexec : exec i s = widenX i src rd rs1 x s) (hx : s.params.hasX128 = true)
    (hrd : rd.getLsbD 0 = false) :
    let r := fun k => s.cvtLane .S src (XRm.rounding x) (s.getF rs1) k
    WritesPair i s rd (fun v => lane 32 0 v = (r 0).1 ∧ lane 32 1 v = (r 1).1)
      (fun v => lane 32 0 v = (r 2).1 ∧ lane 32 1 v = (r 3).1) (orFlags 4 fun k => (r k).2) := by
  rw [widenX, requiring_true (pcvtx_legal hx hrd)] at hexec
  intro r
  have hflags : orFlags 4 (fun k => (r k).2) = ((r 0).2 ||| (r 1).2) ||| ((r 2).2 ||| (r 3).2) := by
    simp [orFlags, BitVec.or_assoc]
  rw [hflags]
  exact finishPair_writesPair hexec (s.lane_widenPair src _ _ 0) (s.lane_widenPair src _ _ 2)

theorem narrowX_writesF (hw : dst.width = 16) (hexec : exec i s = narrowX i dst rd rs1 x s)
    (hx : s.params.hasX128 = true) (hrs1 : rs1.getLsbD 0 = false) :
    let lo := fun k => s.cvtLane dst .S (XRm.rounding x) (s.getF rs1) k
    let hi := fun k => s.cvtLane dst .S (XRm.rounding x) (s.getF (highReg rs1)) k
    WritesF i s rd
      (fun v => fmtLane dst 0 v = (lo 0).1 ∧ fmtLane dst 1 v = (lo 1).1 ∧ fmtLane dst 2 v = (hi 0).1 ∧
        fmtLane dst 3 v = (hi 1).1)
      ((lo 0).2 ||| (lo 1).2 ||| (hi 0).2 ||| (hi 1).2) := by
  rw [narrowX, requiring_true (pcvtx_legal hx hrs1)] at hexec
  intro lo hi
  obtain ⟨h0, h1⟩ := fmtLane_pair_low hw _ (lo 1).1 (lo 0).1
  obtain ⟨h2, h3⟩ := fmtLane_pair_high hw (hi 1).1 (hi 0).1 _
  rw [BitVec.or_assoc ((lo 0).2 ||| (lo 1).2)]
  exact finishFp_writesF hexec ⟨h0, h1, h2, h3⟩

/-- Settles O49: only the side of Binary32 lanes is a pair, and has to be even. -/
theorem pairConversions : Obligations.PairConversions := by
  intro s rd rs1 x hx
  refine ⟨fun hrd => ⟨?_, ?_⟩, fun hrs1 => ⟨?_, ?_⟩⟩
  · exact widenX_writesPair (exec_pcvtxSH s rd rs1 x) hx hrd
  · exact widenX_writesPair (exec_pcvtxSBf16 s rd rs1 x) hx hrd
  · exact narrowX_writesF rfl (exec_pcvtxHS s rd rs1 x) hx hrs1
  · exact narrowX_writesF rfl (exec_pcvtxBf16S s rd rs1 x) hx hrs1

end Sys2Proof.Machine
end

section
/-! PROOFS of the square root and helper family (45_sqrt_helper.md): one operation on every lane of a register (R230,
R231, R238) and of a pair (R232). Square roots without a packed unit are with the emulated units of the state family. -/

namespace Sys2Proof.Machine

variable {i : Instr} {s : State} {fmt : Fmt} {rd rs1 : FReg} {m : RMode} {x : XRm}

/-! ### One register (R230, R231, R238) -/

/-- Finishing with a packed result writes every lane and accrues the flags of all of them. -/
theorem finishFp_packed1_laneOp1 {f : BitVec fmt.width → FpResult fmt}
    (h : exec i s = s.finishFp rd (packed1 fmt f (s.getF rs1)).1 (packed1 fmt f (s.getF rs1)).2) :
    LaneOp1 i fmt (lanesOf fmt) f rd rs1 s :=
  finishFp_writesF h fun _ hk => fmtLane_packed1 f _ hk

/-- What PSQRT does with a packed unit. -/
theorem sqrtBody_simd (himpl : s.params.psqrtImpl = .simd) :
    sqrtBody i fmt rd rs1 m s =
      s.finishFp rd (s.packedSqrt fmt m (s.getF rs1)).1 (s.packedSqrt fmt m (s.getF rs1)).2 := by
  simp only [sqrtBody, himpl]

/-- With a packed unit PSQRT takes the root of every lane, and so it does when an invisible emulator completes a packed
operand; a machine has the one or the other. -/
theorem sqrtBody_laneOp1 (hexec : exec i s = sqrtBody i fmt rd rs1 m s)
    (h : s.params.psqrtImpl = .simd ∨ (s.params.emulationVisible = false ∧ highNaN fmt (s.getF rs1) = false)) :
    LaneOp1 i fmt (lanesOf fmt) ((numericsOf s.params).sqrt fmt m) rd rs1 s := by
  refine finishFp_packed1_laneOp1 (hexec.trans ?_)
  cases himpl : s.params.psqrtImpl with
  | simd => exact sqrtBody_simd himpl
  | scalarOrEmulate =>
    obtain ⟨hv, hn⟩ := h.resolve_left (by simp [himpl])
    rw [sqrtBody_scalarOrEmulate himpl, hn, if_neg Bool.false_ne_true, hv, if_neg Bool.false_ne_true]
    rfl

/-- Settles O51: PSQRT.S and PSQRT.H as the unit carries them out, and FSQRT.D, which no unit leaves to an emulator. -/
theorem packedSquareRoot : Obligations.PackedSquareRoot := by
  intro s rd rs1 rm m hrm
  have hS := (exec_psqrtS s rd rs1 rm).trans (withRoundingOrX_narrow hrm)
  have hH := (exec_psqrtH s rd rs1 rm).trans (withRounding_narrow hrm)
  have hD := (exec_fsqrtD s rd rs1 rm).trans (withRoundingOrX_narrow hrm)
  exact ⟨sqrtBody_laneOp1 hS, sqrtBody_laneOp1 hH, finishFp_packed1_laneOp1 hD⟩

/-- The helper template with its feature. -/
theorem helper_laneOp1 {g : BitVec fmt.width → FpResult fmt} (hexec : exec i s = helper i fmt g rd rs1 s)
    (hfeature : s.params.hasHelper = true) : LaneOp1 i fmt (lanesOf fmt) g rd rs1 s :=
  finishFp_packed1_laneOp1 (hexec.trans (requiring_true hfeature))

/-- Settles O54: the two approximations, each in .S, .D and .H. -/
theorem helperApproximations : Obligations.HelperApproximations := by
  intro s rd rs1 hfeature
  exact ⟨helper_laneOp1 (exec_prcpaS s rd rs1) hfeature, helper_laneOp1 (exec_frcpaD s rd rs1) hfeature,
    helper_laneOp1 (exec_prcpaH s rd rs1) hfeature, helper_laneOp1 (exec_psqrtaS s rd rs1) hfeature,
    helper_laneOp1 (exec_fsqrtaD s rd rs1) hfeature, helper_laneOp1 (exec_psqrtaH s rd rs1) hfeature⟩

/-! ### Pairs (R232) -/

/-- The checks of PSQRTX pass for even pairs with the 128-bit feature. -/
theorem sqrtX_legal (hx : s.params.hasX128 = true) (hrd : rd.getLsbD 0 = false) (hrs1 : rs1.getLsbD 0 = false) :
    (s.params.hasX128 && (evenReg rd && evenReg rs1)) = true := by
  rw [hx, evenReg, evenReg, hrd, hrs1]; rfl

/-- A legal PSQRTX is left to a visible emulator, or takes both halves' roots. -/
theorem sqrtX_of_legal (hlegal : (s.params.hasX128 && (evenReg rd && evenReg rs1)) = true) :
    sqrtX i fmt rd rs1 x s =
      if s.params.psqrtImpl = .scalarOrEmulate ∧ s.params.emulationVisible = true then emulate i s
      else s.finishPair rd (s.packedSqrt fmt (XRm.rounding x) (s.getF rs1)).1
        (s.packedSqrt fmt (XRm.rounding x) (s.getF (highReg rs1))).1
        ((s.packedSqrt fmt (XRm.rounding x) (s.getF rs1)).2 |||
          (s.packedSqrt fmt (XRm.rounding x) (s.getF (highReg rs1))).2) := by
  simp only [sqrtX, requiring_true hlegal, Bool.and_eq_true, decide_eq_true_eq]

/-- A packed unit, or an invisible emulator, takes the root of every lane of both halves, with the flags of both. -/
theorem sqrtX_pairOp1 (hexec : exec i s = sqrtX i fmt rd rs1 x s)
    (hlegal : (s.params.hasX128 && (evenReg rd && evenReg rs1)) = true)
    (h : s.params.psqrtImpl = .simd ∨ s.params.emulationVisible = false) :
    PairOp1 i fmt (lanesOf fmt) ((numericsOf s.params).sqrt fmt (XRm.rounding x)) rd rs1 s := by
  have completes : ¬(s.params.psqrtImpl = .scalarOrEmulate ∧ s.params.emulationVisible = true) := by
    rintro ⟨himpl, hv⟩
    simp [himpl, hv] at h
  rw [sqrtX_of_legal hlegal, if_neg completes] at hexec
  exact finishPair_writesPair hexec (fun _ hk => fmtLane_packed1 _ _ hk) fun _ hk => fmtLane_packed1 _ _ hk

/-- Settles O53: PSQRTX.S and PSQRTX.D. -/
theorem pairSquareRoot : Obligations.PairSquareRoot := by
  intro s rd rs1 x hx hrd hrs1 h
  have legal := sqrtX_legal hx hrd hrs1
  exact ⟨sqrtX_pairOp1 (exec_psqrtxS s rd rs1 x) legal h, sqrtX_pairOp1 (exec_psqrtxD s rd rs1 x) legal h⟩

end Sys2Proof.Machine
end

section
/-! PROOFS of the fused multiply-add family (46_fma.md): every lane with HAS_PMADD (R251), lane 0 NaN-boxed without
(R252). The instructions differ in their format and in the two signs (R250). -/

namespace Sys2Proof.Machine

variable {i : Instr} {s : State} {fmt : Fmt} {negp negc : Bool} {rd rs1 rs2 rs3 : FReg} {rm : BitVec 3} {m : RMode}

/-- The multiply-add template with HAS_PMADD: one fused multiply-add for every lane (R251). -/
theorem multiplyAdd_laneOp3 (hexec : exec i s = multiplyAdd i fmt negp negc rd rs1 rs2 rs3 rm s)
    (hrm : s.rmMeaning rm = .narrow m) (hfeature : s.params.hasPmadd = true) :
    LaneOp3 i fmt (lanesOf fmt) (fun a b c => (numericsOf s.params).fma fmt m a b c negp negc) rd rs1 rs2 rs3 s := by
  rw [multiplyAdd, withRounding_narrow hrm, if_pos hfeature] at hexec
  exact finishFp_writesF hexec fun _ hk => fmtLane_packed3 _ _ _ _ hk

/-- The multiply-add template without HAS_PMADD: lane 0 of the three sources, whatever their high lanes hold (R252). -/
theorem multiplyAdd_boxesScalar (hexec : exec i s = multiplyAdd i fmt negp negc rd rs1 rs2 rs3 rm s)
    (hrm : s.rmMeaning rm = .narrow m) (hfeature : s.params.hasPmadd = false) :
    BoxesScalar i fmt ((numericsOf s.params).fma fmt m (fmtLane fmt 0 (s.getF rs1)) (fmtLane fmt 0 (s.getF rs2))
      (fmtLane fmt 0 (s.getF rs3)) negp negc) rd s := by
  rw [multiplyAdd, withRounding_narrow hrm, if_neg (by simp [hfeature])] at hexec
  exact finishFp_boxesScalar hexec

/-- Settles O55: the four mnemonics of R250, each in .S and .H. -/
theorem packedMultiplyAdd : Obligations.PackedMultiplyAdd := by
  intro s rd rs1 rs2 rs3 rm m hrm hfeature
  have lanes {i : Instr} {fmt : Fmt} {negp negc : Bool}
      (hexec : exec i s = multiplyAdd i fmt negp negc rd rs1 rs2 rs3 rm s) := multiplyAdd_laneOp3 hexec hrm hfeature
  exact ⟨lanes (exec_pmaddS s rd rs1 rs2 rs3 rm), lanes (exec_pmaddH s rd rs1 rs2 rs3 rm),
    lanes (exec_pmsubS s rd rs1 rs2 rs3 rm), lanes (exec_pmsubH s rd rs1 rs2 rs3 rm),
    lanes (exec_pnmsubS s rd rs1 rs2 rs3 rm), lanes (exec_pnmsubH s rd rs1 rs2 rs3 rm),
    lanes (exec_pnmaddS s rd rs1 rs2 rs3 rm), lanes (exec_pnmaddH s rd rs1 rs2 rs3 rm)⟩

/-- Settles O56: the same eight encodings, which are then the scalar FMADD family. -/
theorem scalarMultiplyAdd : Obligations.ScalarMultiplyAdd := by
  intro s rd rs1 rs2 rs3 rm m hrm hfeature
  have boxes {i : Instr} {fmt : Fmt} {negp negc : Bool}
      (hexec : exec i s = multiplyAdd i fmt negp negc rd rs1 rs2 rs3 rm s) :=
    multiplyAdd_boxesScalar hexec hrm hfeature
  exact ⟨boxes (exec_pmaddS s rd rs1 rs2 rs3 rm), boxes (exec_pmaddH s rd rs1 rs2 rs3 rm),
    boxes (exec_pmsubS s rd rs1 rs2 rs3 rm), boxes (exec_pmsubH s rd rs1 rs2 rs3 rm),
    boxes (exec_pnmsubS s rd rs1 rs2 rs3 rm), boxes (exec_pnmsubH s rd rs1 rs2 rs3 rm),
    boxes (exec_pnmaddS s rd rs1 rs2 rs3 rm), boxes (exec_pnmaddH s rd rs1 rs2 rs3 rm)⟩

end Sys2Proof.Machine
end

section
/-! PROOFS of the Misc family (47_misc.md): what the instructions write (R270 to R283), and the recommended functions in
lanes of their operands (R271 to R275). -/

namespace Sys2Proof.Machine

/-! ### What the instructions write (R270 to R283) -/

/-- The two-operand template with HAS_MISC, whatever function of the operands it is given (R270). -/
theorem misc2_writesX {i : Instr} {g : Word → Word → Word} {rd rs1 rs2 : XReg} {s : State}
    (hexec : exec i s = misc2 i g rd rs1 rs2 s) (hmisc : s.params.hasMisc = true) :
    WritesX i s rd (g (s.getX rs1) (s.getX rs2)) 0#5 :=
  finishX_writesX (hexec.trans (requiring_true hmisc))

theorem pshufW_writesX {rd rs1 : XReg} {imm : BitVec 8} {s : State} (hmisc : s.params.hasMisc = true) :
    WritesX (.pshufW rd rs1 imm) s rd (shufWOf s.params (s.getX rs1) imm) 0#5 :=
  finishX_writesX ((exec_pshufW s rd rs1 imm).trans (requiring_true hmisc))

/-- The shuffle of FP registers is a move of bits: it accrues no flags (R274). -/
theorem pfshufW_writesF {rd rs1 : FReg} {imm : BitVec 8} {s : State} (hmisc : s.params.hasMisc = true) :
    WritesF (.pfshufW rd rs1 imm) s rd (fun v => v = shufWOf s.params (s.getF rs1) imm) 0#5 :=
  finishF_writesF ((exec_pfshufW s rd rs1 imm).trans (requiring_true hmisc)) rfl

/-- Settles O57: ten functions of two operands, and the shuffle in both register files. -/
theorem miscInstructions : Obligations.MiscInstructions := by
  intro s rd rs1 rs2 fd fs imm hmisc
  have writes {i : Instr} {g : Word → Word → Word} (hexec : exec i s = misc2 i g rd rs1 rs2 s) :=
    misc2_writesX hexec hmisc
  exact ⟨writes (exec_pack s rd rs1 rs2), writes (exec_packu s rd rs1 rs2), writes (exec_pkbb16 s rd rs1 rs2),
    writes (exec_pkbt16 s rd rs1 rs2), writes (exec_pktb16 s rd rs1 rs2), writes (exec_pktt16 s rd rs1 rs2),
    writes (exec_pkbb32 s rd rs1 rs2), writes (exec_pkbt32 s rd rs1 rs2), writes (exec_pktb32 s rd rs1 rs2),
    writes (exec_pktt32 s rd rs1 rs2), pshufW_writesX hmisc, pfshufW_writesF hmisc⟩

/-! ### The recommended functions by lanes (R271, R272, R275) -/

theorem halfOf_eq_lane (top : Bool) (v : Word) : halfOf top v = lane 32 top.toNat v := by cases top <;> rfl

theorem quarterOf_eq_extractLsb' (top : Bool) (v : BitVec 32) :
    quarterOf top v = v.extractLsb' (16 * top.toNat) 16 := by
  cases top <;> rfl

/-- A quarter of a half is a 16-bit lane: the half picks the upper or lower two lanes, the quarter one of them. -/
theorem quarterOf_halfOf (upper top : Bool) (v : Word) :
    quarterOf top (halfOf upper v) = lane 16 (2 * upper.toNat + top.toNat) v := by
  have hinside : 16 * top.toNat + 16 ≤ 32 := by cases top <;> decide
  refine BitVec.eq_of_getLsbD_eq fun j hj => ?_
  have hin : 16 * top.toNat + j < 32 := by omega
  have hplace : 32 * upper.toNat + (16 * top.toNat + j) = 16 * (2 * upper.toNat + top.toNat) + j := by omega
  rw [quarterOf_eq_extractLsb', BitVec.getLsbD_extractLsb', halfOf_eq_lane, getLsbD_lane, getLsbD_lane, hplace]
  simp only [hin, decide_true, Bool.true_and]

theorem recPk32_eq_lanes (x y : Bool) (a b : Word) :
    recPk32 x y a b = lane 32 x.toNat a ++ lane 32 y.toNat b := by
  rw [recPk32, halfOf_eq_lane, halfOf_eq_lane]

/-- `pkXY16` takes lanes 2 and 3 for the upper half of the result and lanes 0 and 1 for the lower. -/
theorem recPk16_eq_lanes (x y : Bool) (a b : Word) :
    recPk16 x y a b =
      lane 16 (2 + x.toNat) a ++ lane 16 (2 + y.toNat) b ++ lane 16 x.toNat a ++ lane 16 y.toNat b := by
  rw [BitVec.append_assoc, BitVec.cast_eq]
  simp only [recPk16, pkWord, quarterOf_halfOf, Bool.toNat_true, Bool.toNat_false, Nat.mul_one, Nat.mul_zero,
    Nat.zero_add]

/-! ### The recommended shuffle (R273) -/

theorem lane_recommendedShufW (v : Word) (imm : BitVec 8) {k : Nat} (hk : k < 4) :
    lane 16 k (recommendedShufW v imm) = lane 16 (imm.extractLsb' (2 * k) 2).toNat v :=
  lane_joinLanes (fun i => lane 16 (imm.extractLsb' (2 * i) 2).toNat v) (by decide) hk

/-- The immediate 0xE4 names each lane in its own place. -/
theorem extractLsb'_E4 : ∀ k, k < 4 → ((0xE4#8).extractLsb' (2 * k) 2).toNat = k := by decide

theorem recommendedShufW_E4 (v : Word) : recommendedShufW v 0xE4#8 = v :=
  eq_of_lanes (w := 16) (n := 4) (by decide) rfl fun k hk => by
    rw [lane_recommendedShufW v _ hk, extractLsb'_E4 k hk]

/-- Settles O58: PACK and PACKU put the half of the second operand on top, `pkXY` that of the first. -/
theorem recommendedMisc : Obligations.RecommendedMisc := by
  intro a b imm
  have pack (top : Bool) : halfOf top b ++ halfOf top a = lane 32 top.toNat b ++ lane 32 top.toNat a := by
    rw [halfOf_eq_lane, halfOf_eq_lane]
  exact ⟨pack false, pack true,
    recPk32_eq_lanes false false a b, recPk32_eq_lanes false true a b,
    recPk32_eq_lanes true false a b, recPk32_eq_lanes true true a b,
    recPk16_eq_lanes false false a b, recPk16_eq_lanes false true a b,
    recPk16_eq_lanes true false a b, recPk16_eq_lanes true true a b,
    fun _ hk => lane_recommendedShufW a imm hk, recommendedShufW_E4 a⟩

end Sys2Proof.Machine
end

section
/-! PROOFS of the base imports (48_base_imports.md): each is one register write that accrues no flags. -/

namespace Sys2Proof.Machine

/-- Settles O59: the two moves between the register files, and the two integer operations. -/
theorem imports : Obligations.Imports := by
  intro s rd rs1 rs2 fr imm
  exact ⟨finishX_writesX (exec_fmvXD s rd fr), finishF_writesF (exec_fmvDX s fr rs1) rfl,
    finishX_writesX (exec_sub s rd rs1 rs2), finishX_writesX (exec_addi s rd rs1 imm)⟩

end Sys2Proof.Machine
end

section
/-! PROOFS of the end of a run (60_exceptions.md): with `step_eq_stepRunning`, the two lemmas below are the three cases
of a step. -/

namespace Sys2Proof.Machine

/-- A trapped machine takes no step (R300, R312). -/
theorem step_eq_trapped {s : State} {e : Trap} (htrap : s.trap = some e) : step s = .fault (.trapped e) := by
  simp only [step, htrap]

/-- A machine at HALT_PC takes no step (R335); a trap comes first. -/
theorem step_eq_halted {s : State} (htrap : s.trap = none) (hhalt : s.params.haltPc = some s.pc) :
    step s = .fault .halted := by
  simp only [step, htrap, if_pos hhalt]

/-- Settles O9: the two ways a run is over. -/
theorem endOfRun : Obligations.EndOfRun :=
  ⟨fun _ _ htrap => step_eq_trapped htrap, fun _ htrap hhalt => step_eq_halted htrap hhalt⟩

end Sys2Proof.Machine
end
